-- ==== Sys2Proof/Word.lean ====
section
/-! DEFINITION. The words of the protocol: bytes, message identifiers, tags and ticks. -/

namespace Sys2Proof

/-- An unsigned 8-bit value (R15). -/
abbrev Byte := BitVec 8

/-- A 16-bit message identifier, the "opcode" (R11, R23). -/
abbrev MsgId := BitVec 16

/-- The number the block gives each accepted operation; unbounded (R38). -/
abbrev Tag := Nat

/-- A time in ticks; the length of a tick is not fixed (R45). -/
abbrev Ticks := Nat

/-- A motor channel's number, `1 .. NUM_CHANNELS` (R57). -/
abbrev Channel := Nat

end Sys2Proof
end

