-- ==== Sys2Proof/Machine/Ports.lean ====
section
/-! DEFINITION. The values that cross the block's ports (R31): module addresses, field values, frames, host operations,
events, errors and their information. -/

namespace Sys2Proof

/-- The thirteen module addresses (R56, R150); `bay n` is Bay `n` of R157. -/
inductive ModuleAddress where
  | host
  | motherboard
  | bay (n : Fin 10)
  | genericUSB
  deriving DecidableEq, Repr, Inhabited

/-- The place of a module in the total map `subs` (R43). -/
def ModuleAddress.index : ModuleAddress → Fin 13
  | .host => 0
  | .motherboard => 1
  | .bay n => ⟨n.val + 2, by omega⟩
  | .genericUSB => 12

/-- The frame shape of a message kind (R90). -/
inductive Shape where
  | fixed
  | variableLen
  deriving DecidableEq, Repr, Inhabited

/-- The names of payload fields: those of the default schemas (R308 to R344), and any other that a configuration's own
`SCHEMA` uses (R10). -/
inductive FieldName where
  | chanIdent | minVel | accn | maxVel
  | jogMode | jogStepSize | jogMinVel | jogAccn | jogMaxVel | stopMode
  | cwHardLimit | ccwHardLimit | cwSoftLimit | ccwSoftLimit | limitMode
  | adcInput1 | adcInput2
  | homeDir | limitSwitch | homeVelocity | offsetDistance
  | relativeDistance | absolutePosition
  | position | encCount | statusBits
  | msgIdent | code | notes
  | serial | model | hwType | fw | empty | hwVer | modState | numCh
  | other (name : String)
  deriving DecidableEq, Repr, Inhabited

/-- One field's value: a raw unsigned number or a byte string (R76, R99). -/
inductive FieldValue where
  | uint (v : Nat)
  | bytes (bs : List Byte)
  deriving DecidableEq, Repr, Inhabited

/-- The fields of a payload: name by name under a field schema, or the payload bytes under `Opaque` (R49, R129). -/
inductive FieldValues where
  | record (fields : List (FieldName × FieldValue))
  | raw (bs : List Byte)
  deriving DecidableEq, Repr, Inhabited

/-- What a frame carries beside its identifier and addresses (R131). -/
inductive FrameBody where
  | fixed (param1 param2 : Byte)
  | variableLen (len : BitVec 16) (fields : FieldValues)
  deriving DecidableEq, Repr, Inhabited

/-- A decoded frame, its addresses logical, the marker stripped (R131). -/
structure Frame where
  id : MsgId
  dest : ModuleAddress
  source : ModuleAddress
  body : FrameBody
  deriving DecidableEq, Repr, Inhabited

/-- The shape a frame record has (R131). -/
def Frame.shape (f : Frame) : Shape :=
  match f.body with
  | .fixed _ _ => .fixed
  | .variableLen _ _ => .variableLen

/-- The `fields` of a frame, none for a fixed frame (R128, R129). -/
def Frame.fields (f : Frame) : Option FieldValues :=
  match f.body with
  | .fixed _ _ => none
  | .variableLen _ v => some v

/-- A direction of `move_jog` and `move_velocity` (R201). -/
inductive Direction where
  | forward
  | reverse
  deriving DecidableEq, Repr, Inhabited

/-- A stop mode of `move_stop` (R201). -/
inductive StopMode where
  | immediate
  | profiled
  deriving DecidableEq, Repr, Inhabited

/-- The host operations that send a frame (R201). `timeout` is the optional argument of every request operation, in
ticks; `none` stands for `Cfg.DEFAULT_TIMEOUT`. -/
inductive Command where
  | identify (ch : Channel) (dest : Byte)
  | setEnable (ch : Channel) (dest : Byte) (on : Bool)
  | getEnable (ch : Channel) (dest : Byte) (timeout : Option Ticks)
  | setVelparams (ch : Channel) (dest : Byte) (vals : FieldValues)
  | getVelparams (ch : Channel) (dest : Byte) (timeout : Option Ticks)
  | setJogparams (ch : Channel) (dest : Byte) (vals : FieldValues)
  | getJogparams (ch : Channel) (dest : Byte) (timeout : Option Ticks)
  | setHomeparams (ch : Channel) (dest : Byte) (vals : FieldValues)
  | getHomeparams (ch : Channel) (dest : Byte) (timeout : Option Ticks)
  | setLimswitchparams (ch : Channel) (dest : Byte) (vals : FieldValues)
  | getLimswitchparams (ch : Channel) (dest : Byte) (timeout : Option Ticks)
  | setMoverelparams (ch : Channel) (dest : Byte) (vals : FieldValues)
  | getMoverelparams (ch : Channel) (dest : Byte) (timeout : Option Ticks)
  | setMoveabsparams (ch : Channel) (dest : Byte) (vals : FieldValues)
  | getMoveabsparams (ch : Channel) (dest : Byte) (timeout : Option Ticks)
  | getAdc (ch : Channel) (dest : Byte) (timeout : Option Ticks)
  | moveHome (ch : Channel) (dest : Byte)
  | moveRelative (ch : Channel) (dest : Byte)
  | moveAbsolute (ch : Channel) (dest : Byte)
  | moveJog (ch : Channel) (dest : Byte) (dir : Direction)
  | moveVelocity (ch : Channel) (dest : Byte) (dir : Direction)
  | moveStop (ch : Channel) (dest : Byte) (mode : StopMode)
  | startUpdates (dest : Byte)
  | stopUpdates (dest : Byte)
  | reqHwInfo (dest : Byte) (timeout : Option Ticks)
  | reqRackBayused (dest : Byte) (bay : Byte) (timeout : Option Ticks)
  | reqHubBayused (dest : Byte) (timeout : Option Ticks)
  deriving DecidableEq, Repr, Inhabited

/-- The closed set of host operations: the commands and `cancel`, which sends nothing (R201, R213). -/
inductive Op where
  | command (c : Command)
  | cancel (target : Tag)
  deriving DecidableEq, Repr, Inhabited

/-- The events by which the block moves (R32). -/
inductive Event where
  | accept (op : Op)
  | process
  | receive (bs : List Byte)
  | deframe
  | tick (t : Ticks)
  | expire (t : Tag)
  | close
  | reconnect
  deriving DecidableEq, Repr, Inhabited

/-- The transport's answer to one write (R205). -/
inductive TxAnswer where
  | ok
  | error
  deriving DecidableEq, Repr, Inhabited

/-- The error codes of R400; code 0, `Ok`, is no error and is `OpOutcome.ok`. -/
inductive ErrorCode where
  | invalidAddress
  | unknownMessageId
  | malformedAddressBit
  | truncatedFrame
  | trailingBytes
  | timeout
  | transportError
  | disconnected
  | schemaViolation
  | busy
  | cancelled
  deriving DecidableEq, Repr, Inhabited

/-- Why `decode` rejects a byte sequence, with the information of R401 to R405 (R126). -/
inductive DecodeError where
  | truncatedFrame (id : Option MsgId) (got need : Nat)
  | unknownMessageId (id : MsgId)
  | trailingBytes (id : MsgId) (extra : Nat)
  | malformedAddressBit (id : MsgId) (byte : Byte)
  | invalidAddress (byte : Byte)
  deriving DecidableEq, Repr

/-- The `reason` of a `SchemaViolation` (R409). -/
inductive SchemaReason where
  | unregisteredKind (id : MsgId)
  | fieldCount
  | fieldWidth (field : Option FieldName)
  | length
  | channel (ch : Channel)
  | bay (bay : Byte)
  | timeout
  deriving DecidableEq, Repr

/-- Why an operation, an `encode` or a snapshot read is turned away before any I/O (R401, R409). -/
inductive OpError where
  | invalidAddress (byte : Byte)
  | selfAddressed (byte : Byte)
  | schemaViolation (reason : SchemaReason)
  deriving DecidableEq, Repr

/-- The `reason` of the `TransportError` that a closing step emits on `EVENT` (R407). -/
inductive CloseReason where
  | writeError
  | streamClosed
  deriving DecidableEq, Repr

/-- An entry of the `EVENT` log (R414): a decode error of the inbound stream with how many bytes were dropped, the
bytes left in `rx` at a close (R138), or a close. -/
inductive LogEvent where
  | decodeError (e : DecodeError) (dropped : Nat)
  | truncatedAtClose (got : Nat)
  | transportError (reason : CloseReason)
  deriving DecidableEq, Repr

/-- The one outcome of an accepted operation (R51). -/
inductive OpOutcome where
  | ok
  | reply (f : Frame)
  | err (code : ErrorCode)
  deriving DecidableEq, Repr

end Sys2Proof
end

