-- ==== Sys2Proof/Config.lean ====
section
/-! DEFINITION. What is fixed for the life of a block: the configuration record `Cfg` (R10) with the record types of its
catalogue (R171), and the free values: the constants without a body. What the specification leaves to the configuration
or to the environment and gives no default for is one of the three constants at the end; the parameters it gives a
default for are fields of `Cfg`, at any value. -/

namespace Sys2Proof

/-- What a second request to a busy key does (R10, R207). -/
inductive BusyPolicy where
  | wait
  | failFast
  deriving DecidableEq, Repr, Inhabited

/-- The configuration fields that R10 leaves OPEN without a default. `NUM_CHANNELS` and `DEFAULT_TIMEOUT` are integers
of at least 1, so each is held as the number above 1: every value of the record is a legal one. -/
structure Params where
  extraChannels : Nat
  extraTicks : Nat
  busyPolicy : BusyPolicy
  deriving DecidableEq, Repr, Inhabited

/-- `NUM_CHANNELS`, an integer of at least 1 (R10). -/
def Params.numChannels (c : Params) : Nat := c.extraChannels + 1

/-- `DEFAULT_TIMEOUT`, an integer of at least 1 (R10). -/
def Params.defaultTimeout (c : Params) : Ticks := c.extraTicks + 1

/-- The type of a schema field (R99). That `n` of `Bytes(n)` is at least 1 is `FieldType.legal`, which a block's
construction checks. -/
inductive FieldType where
  | uint1
  | uint2
  | uint4
  | bytes (n : Nat)
  deriving DecidableEq, Repr, Inhabited

/-- The payload schema of a kind (R100, R98, R101). -/
inductive Schema where
  | fixed2
  | fields (fs : List (FieldName × FieldType))
  | opaqueBytes
  deriving DecidableEq, Repr, Inhabited

/-- The role of a kind (R171). -/
inductive Role where
  | set
  | request
  | response
  | command
  | report
  deriving DecidableEq, Repr, Inhabited

/-- The direction of a kind (R171). -/
inductive Dir where
  | hostToDevice
  | deviceToHost
  deriving DecidableEq, Repr, Inhabited

/-- The families: those of R347, and any other that a configuration's own catalogue uses (R10). -/
inductive Family where
  | enable | vel | jog | lim | adc | home | rel | abs | hwinfo | rackbay | hubbay
  | other (n : Nat)
  deriving DecidableEq, Repr, Inhabited

/-- The order of the families in R347, the others after them; it orders the keys of `waitq`. -/
def Family.index : Family → Nat
  | .enable => 0
  | .vel => 1
  | .jog => 2
  | .lim => 3
  | .adc => 4
  | .home => 5
  | .rel => 6
  | .abs => 7
  | .hwinfo => 8
  | .rackbay => 9
  | .hubbay => 10
  | .other n => 11 + n

/-- Where a frame of a kind names its channel (R171, R271). -/
inductive ChanField where
  | param1
  | field (name : FieldName)
  | none
  deriving DecidableEq, Repr, Inhabited

/-- The channel-state field that the cache updater writes for a kind (R171). -/
inductive Slot where
  | vel | jog | home | lim | rel | abs | adc | status | enable
  deriving DecidableEq, Repr, Inhabited

/-- The names of message kinds: the mnemonics of R302 to R345, and any other that a configuration's own catalogue uses
(R170: a closed tagged variant, never raw integers). -/
inductive KindName where
  | modIdentify | modSetChanenablestate | modReqChanenablestate | modGetChanenablestate | hwDisconnect
  | hwResponse | hwRichresponse | hwStartUpdatemsgs | hwStopUpdatemsgs | hwReqInfo | hwGetInfo | rackReqBayused
  | rackGetBayused | hubReqBayused | hubGetBayused | motSetVelparams | motReqVelparams | motGetVelparams
  | motSetJogparams | motReqJogparams | motGetJogparams | motSetLimswitchparams | motReqLimswitchparams
  | motGetLimswitchparams | motReqAdcinputs | motGetAdcinputs | motSetHomeparams | motReqHomeparams
  | motGetHomeparams | motMoveHome | motMoveHomed | motSetMoverelparams | motReqMoverelparams
  | motGetMoverelparams | motMoveRelative | motSetMoveabsparams | motReqMoveabsparams | motGetMoveabsparams
  | motMoveAbsolute | motMoveVelocity | motMoveCompleted | motMoveStop | motMoveStopped | motMoveJog
  | other (name : String)
  deriving DecidableEq, Repr, Inhabited

/-- A message kind of the registry (R171). -/
structure Kind where
  id : MsgId
  name : KindName
  shape : Shape
  schema : Schema
  role : Role
  dir : Dir
  family : Option Family
  responses : List MsgId
  chanField : ChanField
  slot : Option Slot
  deriving DecidableEq, Repr, Inhabited

/-- The configuration of a block (R10): every parameter that R10 marks OPEN. `SCHEMA(kind)` is the `schema` of the
catalogue's kind; `CHAN_IDENT` is a finite map, undefined where it lists nothing. -/
structure Cfg extends Params where
  /-- `CATALOGUE`, with `SCHEMA` in it (D13, D16) -/
  catalogue : List Kind
  /-- `CHAN_IDENT` (D34) -/
  chanIdents : List (Channel × Nat)
  /-- `ENABLE_CODE(true)` (D34) -/
  enableOn : Byte
  /-- `ENABLE_CODE(false)` (D34) -/
  enableOff : Byte
  /-- `DIR_CODE(Forward)` (D34) -/
  dirForward : Byte
  /-- `DIR_CODE(Reverse)` (D34) -/
  dirReverse : Byte
  /-- `STOP_CODE(Immediate)` (D34) -/
  stopImmediate : Byte
  /-- `STOP_CODE(Profiled)` (D34) -/
  stopProfiled : Byte
  deriving DecidableEq, Repr, Inhabited

/-- The parameters without a default, of the block that `step` runs: every value R10 allows (log 3). -/
opaque Config.params : Params

/-- The event the environment brings about at draw `n`, once the events already determined are used up: any event, in
any order (R32, log 4). -/
opaque Config.environment : Nat → Event

/-- The transport's answer to the write at draw `n`, once the answers already determined are used up (R205, log 6). -/
opaque Config.transport : Nat → TxAnswer

end Sys2Proof
end

