-- ==== Sys2Proof/Machine/State.lean ====
section
/-! DEFINITION. The state of the block: every field of R30, the environment's part that the model adds, the reasons a
step could stop, and the state after reset (R450). All of it is plain data. -/

namespace Sys2Proof.Machine

/-- The connection state (R35). -/
inductive Conn where
  | opened
  | closed
  deriving DecidableEq, Repr

/-- The subscription state of a module (R43). -/
inductive Subscription where
  | unsubscribed
  | subscribed
  deriving DecidableEq, Repr

/-- The states of a channel's life (R47). -/
inductive Life where
  | unknown
  | disabled
  | enabled
  | homing
  | homed
  | moving
  | completed
  | stopped
  | jogging
  deriving DecidableEq, Repr

/-- The cached enable flag of a channel: unknown until the block has sent or heard one (R48). -/
inductive EnableFlag where
  | unknown
  | known (on : Bool)
  deriving DecidableEq, Repr

/-- A channel's state (R46). -/
structure ChannelState where
  life : Life
  enable : EnableFlag
  vel : Option FieldValues
  jog : Option FieldValues
  home : Option FieldValues
  lim : Option FieldValues
  rel : Option FieldValues
  abs : Option FieldValues
  adc : Option FieldValues
  status : Option FieldValues
  deriving DecidableEq, Repr

/-- `ChannelState.init` (R260). -/
def ChannelState.init : ChannelState :=
  { life := .unknown, enable := .unknown, vel := none, jog := none, home := none, lim := none, rel := none,
    abs := none, adc := none, status := none }

/-- A key of the channel-state file (R44). -/
structure ChanKey where
  module : ModuleAddress
  ch : Channel
  deriving DecidableEq, Repr

/-- The order in which the channel file lists its keys. -/
def ChanKey.rank (k : ChanKey) : Nat := k.ch * 13 + k.module.index.val

/-- A `(dest, family)` key of the one-pending-per-key rule (R41, R42): the family of the request's kind, which is absent
only where a supplied catalogue gives the kind of a request operation none (log 25). -/
structure BusyKey where
  dest : ModuleAddress
  family : Option Family
  deriving DecidableEq, Repr

/-- The order of the families of keys, no family first. -/
def familyRank : Option Family → Nat
  | none => 0
  | some f => f.index + 1

/-- The order in which `waitq` lists its keys. -/
def BusyKey.rank (k : BusyKey) : Nat := familyRank k.family * 13 + k.dest.index.val

/-- A pending transaction (R40); its family is that of its request's kind, as in `BusyKey`. -/
structure Pending where
  reqId : MsgId
  respIds : List MsgId
  dest : ModuleAddress
  family : Option Family
  channel : Option Channel
  deadline : Ticks
  op : Command
  deriving DecidableEq, Repr

/-- The key a pending transaction keeps busy (R41). -/
def Pending.key (p : Pending) : BusyKey := ⟨p.dest, p.family⟩

/-- A deferred request with its frame already encoded (R42). -/
structure Deferred where
  tag : Tag
  op : Command
  bytes : List Byte
  deriving DecidableEq, Repr

/-- The environment's part (not state of the specification; log 4, 6, 7): the events and the write answers already
determined, and how many free values have been drawn since. -/
structure Env where
  agenda : List Event
  answers : List TxAnswer
  draws : Nat
  deriving DecidableEq, Repr

/-- The state of the block (R30). `pending`, `waitq` and `chan` are finite maps held as lists of key and value with
rising keys (log 11); `chan` lists only the channels that are not at `ChannelState.init`. -/
structure State where
  /-- the transport connection state (R35) -/
  conn : Conn
  /-- the RX reassembly buffer (R36) -/
  rx : List Byte
  /-- the command hand-off queue (R37) -/
  cmdq : List (Tag × Op)
  /-- the next tag to give (R38) -/
  nextTag : Tag
  /-- the pending-transaction table, by tag (R39) -/
  pending : List (Tag × Pending)
  /-- the deferred requests of each busy key (R42) -/
  waitq : List (BusyKey × List Deferred)
  /-- the update-message subscription state of each module, at `ModuleAddress.index` (R43) -/
  subs : Vector Subscription 13
  /-- the channel-state file (R44) -/
  chan : List (ChanKey × ChannelState)
  /-- the current time in ticks (R45) -/
  now : Ticks
  /-- every byte sequence handed to `TX`, with the transport's answer (R50) -/
  txlog : List (List Byte × TxAnswer)
  /-- every outcome delivered on `RESULT` (R50) -/
  results : List (Tag × OpOutcome)
  /-- every frame emitted on `NOTIFY` (R50) -/
  notify : List Frame
  /-- every entry emitted on `EVENT` (R50) -/
  events : List LogEvent
  /-- the model's own: the environment (log 7) -/
  env : Env
  deriving DecidableEq, Repr

/-- The reasons the machine could stop with a fault: none. Nothing the specification describes stops the block (R467:
"Halted" is not a state of the block), so no meaning raises one (safe, log 19). -/
inductive Fault where
  deriving DecidableEq, Repr

/-- The reasons a step could have no meaning. -/
inductive Refusal where
  /-- raised by an arm of `exec` whose instruction has no meaning yet; safe. No arm does (every kind has its meaning). -/
  | notModelled (mnemonic : String)
  deriving DecidableEq, Repr

/-- The reset state (R450); the environment starts with nothing determined and nothing drawn (log 7). -/
def State.reset : State :=
  { conn := .opened, rx := [], cmdq := [], nextTag := 0, pending := [], waitq := [],
    subs := Vector.replicate 13 .unsubscribed, chan := [], now := 0, txlog := [], results := [], notify := [],
    events := [], env := { agenda := [], answers := [], draws := 0 } }

end Sys2Proof.Machine
end

