-- ==== Sys2Proof/Machine/Flags.lean ====
section
/-! DEFINITION. The block's flag computations: every transition of a channel's `enable` flag and `life` (R263 to R285),
and what the cache updater writes (R273 to R282). Each is a function of one channel's state. -/

namespace Sys2Proof.Machine

/-- `ENABLED_FAMILY` (R264). -/
def Life.inEnabledFamily : Life → Bool
  | .unknown => false
  | .disabled => false
  | .enabled => true
  | .homing => true
  | .homed => true
  | .moving => true
  | .completed => true
  | .stopped => true
  | .jogging => true

/-- The enable flag set to `on`: enabling moves `life` only from `Unknown` and `Disabled`, disabling always makes it
`Disabled` (R265, R272). -/
def ChannelState.withEnable (on : Bool) (c : ChannelState) : ChannelState :=
  match on with
  | true =>
    { c with enable := .known true, life := if c.life = .unknown ∨ c.life = .disabled then .enabled else c.life }
  | false => { c with enable := .known false, life := .disabled }

/-- A motion command handed off: `life` becomes `goal` from `ENABLED_FAMILY` only (R266 to R269). -/
def ChannelState.beginMotion (goal : Life) (c : ChannelState) : ChannelState :=
  if c.life.inEnabledFamily then { c with life := goal } else c

/-- `MOT_MOVE_HOMED` (R280). -/
def ChannelState.onHomed (c : ChannelState) : ChannelState :=
  if c.life = .homing then { c with life := .homed } else c

/-- The `life` part of `MOT_MOVE_COMPLETED` (R281). -/
def ChannelState.onCompleted (c : ChannelState) : ChannelState :=
  if c.life = .moving ∨ c.life = .jogging then { c with life := .completed } else c

/-- The `life` part of `MOT_MOVE_STOPPED` (R282). -/
def ChannelState.onStopped (c : ChannelState) : ChannelState :=
  if c.life = .moving ∨ c.life = .jogging ∨ c.life = .homing then { c with life := .stopped } else c

/-- The channel's state no longer known, the caches kept (R283, R285). -/
def ChannelState.forget (c : ChannelState) : ChannelState :=
  { c with life := .unknown, enable := .unknown }

/-- An error report of the device: homing fails (R284). -/
def ChannelState.onErrorReport (c : ChannelState) : ChannelState :=
  if c.life = .homing then { c with life := .unknown } else c

/-- The cache field `slot` written with the fields of a report (R273 to R279, R281, R282). `enable` is no cache of
fields: it is written by `withEnable`. -/
def ChannelState.cache (slot : Option Slot) (fields : Option FieldValues) (c : ChannelState) : ChannelState :=
  match slot with
  | some .vel => { c with vel := fields }
  | some .jog => { c with jog := fields }
  | some .home => { c with home := fields }
  | some .lim => { c with lim := fields }
  | some .rel => { c with rel := fields }
  | some .abs => { c with abs := fields }
  | some .adc => { c with adc := fields }
  | some .status => { c with status := fields }
  | some .enable => c
  | none => c

end Sys2Proof.Machine
end

