-- ==== Sys2Proof/Syntax.lean ====
section
/-! DEFINITION. The instructions: one constructor per row of spec/opcode_table.json, in the table's order. -/

namespace Sys2Proof

/-- A message kind together with the operand bytes of one frame of it (R23, R91, R92). A fixed kind carries
`param1 param2 dest source` as they stand in bytes 2 to 5 of the frame. A variable kind carries the bytes `dest`
(marker included) and `source` and the announced payload bytes. The operands are the bytes as the deframer cut them
(R133): whether they make a legal frame is judged by the meaning, which reports an illegal one on `EVENT` (R136). -/
inductive Instr where
  /-- `MOD_IDENTIFY`, identifier 0x0223 (R302). -/
  | modIdentify (param1 param2 dest source : Byte)
  /-- `MOD_SET_CHANENABLESTATE`, identifier 0x0220 (R303). -/
  | modSetChanenablestate (param1 param2 dest source : Byte)
  /-- `MOD_REQ_CHANENABLESTATE`, identifier 0x0221 (R304). -/
  | modReqChanenablestate (param1 param2 dest source : Byte)
  /-- `MOD_GET_CHANENABLESTATE`, identifier 0x0212 (R305). -/
  | modGetChanenablestate (param1 param2 dest source : Byte)
  /-- `HW_DISCONNECT`, identifier 0x0002 (R306). -/
  | hwDisconnect (param1 param2 dest source : Byte)
  /-- `HW_RESPONSE`, identifier 0x0080 (R307). -/
  | hwResponse (param1 param2 dest source : Byte)
  /-- `HW_RICHRESPONSE`, identifier 0x0081 (R308). -/
  | hwRichresponse (dest source : Byte) (payload : List Byte)
  /-- `HW_START_UPDATEMSGS`, identifier 0x0011 (R309). -/
  | hwStartUpdatemsgs (param1 param2 dest source : Byte)
  /-- `HW_STOP_UPDATEMSGS`, identifier 0x0012 (R310). -/
  | hwStopUpdatemsgs (param1 param2 dest source : Byte)
  /-- `HW_REQ_INFO`, identifier 0x0005 (R311). -/
  | hwReqInfo (param1 param2 dest source : Byte)
  /-- `HW_GET_INFO`, identifier 0x0006 (R312). -/
  | hwGetInfo (dest source : Byte) (payload : List Byte)
  /-- `RACK_REQ_BAYUSED`, identifier 0x0060 (R313). -/
  | rackReqBayused (param1 param2 dest source : Byte)
  /-- `RACK_GET_BAYUSED`, identifier 0x0061 (R314). -/
  | rackGetBayused (param1 param2 dest source : Byte)
  /-- `HUB_REQ_BAYUSED`, identifier 0x0065 (R315). -/
  | hubReqBayused (param1 param2 dest source : Byte)
  /-- `HUB_GET_BAYUSED`, identifier 0x0066 (R316). -/
  | hubGetBayused (param1 param2 dest source : Byte)
  /-- `MOT_SET_VELPARAMS`, identifier 0x0413 (R317). -/
  | motSetVelparams (dest source : Byte) (payload : List Byte)
  /-- `MOT_REQ_VELPARAMS`, identifier 0x0414 (R318). -/
  | motReqVelparams (param1 param2 dest source : Byte)
  /-- `MOT_GET_VELPARAMS`, identifier 0x0415 (R319). -/
  | motGetVelparams (dest source : Byte) (payload : List Byte)
  /-- `MOT_SET_JOGPARAMS`, identifier 0x0416 (R320). -/
  | motSetJogparams (dest source : Byte) (payload : List Byte)
  /-- `MOT_REQ_JOGPARAMS`, identifier 0x0417 (R321). -/
  | motReqJogparams (param1 param2 dest source : Byte)
  /-- `MOT_GET_JOGPARAMS`, identifier 0x0418 (R322). -/
  | motGetJogparams (dest source : Byte) (payload : List Byte)
  /-- `MOT_SET_LIMSWITCHPARAMS`, identifier 0x0423 (R323). -/
  | motSetLimswitchparams (dest source : Byte) (payload : List Byte)
  /-- `MOT_REQ_LIMSWITCHPARAMS`, identifier 0x0424 (R324). -/
  | motReqLimswitchparams (param1 param2 dest source : Byte)
  /-- `MOT_GET_LIMSWITCHPARAMS`, identifier 0x0425 (R325). -/
  | motGetLimswitchparams (dest source : Byte) (payload : List Byte)
  /-- `MOT_REQ_ADCINPUTS`, identifier 0x042B (R326). -/
  | motReqAdcinputs (param1 param2 dest source : Byte)
  /-- `MOT_GET_ADCINPUTS`, identifier 0x042C (R327). -/
  | motGetAdcinputs (dest source : Byte) (payload : List Byte)
  /-- `MOT_SET_HOMEPARAMS`, identifier 0x0440 (R328). -/
  | motSetHomeparams (dest source : Byte) (payload : List Byte)
  /-- `MOT_REQ_HOMEPARAMS`, identifier 0x0441 (R329). -/
  | motReqHomeparams (param1 param2 dest source : Byte)
  /-- `MOT_GET_HOMEPARAMS`, identifier 0x0442 (R330). -/
  | motGetHomeparams (dest source : Byte) (payload : List Byte)
  /-- `MOT_MOVE_HOME`, identifier 0x0443 (R331). -/
  | motMoveHome (param1 param2 dest source : Byte)
  /-- `MOT_MOVE_HOMED`, identifier 0x0444 (R332). -/
  | motMoveHomed (param1 param2 dest source : Byte)
  /-- `MOT_SET_MOVERELPARAMS`, identifier 0x0445 (R333). -/
  | motSetMoverelparams (dest source : Byte) (payload : List Byte)
  /-- `MOT_REQ_MOVERELPARAMS`, identifier 0x0446 (R334). -/
  | motReqMoverelparams (param1 param2 dest source : Byte)
  /-- `MOT_GET_MOVERELPARAMS`, identifier 0x0447 (R335). -/
  | motGetMoverelparams (dest source : Byte) (payload : List Byte)
  /-- `MOT_MOVE_RELATIVE`, identifier 0x0448 (R336). -/
  | motMoveRelative (param1 param2 dest source : Byte)
  /-- `MOT_SET_MOVEABSPARAMS`, identifier 0x0450 (R337). -/
  | motSetMoveabsparams (dest source : Byte) (payload : List Byte)
  /-- `MOT_REQ_MOVEABSPARAMS`, identifier 0x0451 (R338). -/
  | motReqMoveabsparams (param1 param2 dest source : Byte)
  /-- `MOT_GET_MOVEABSPARAMS`, identifier 0x0452 (R339). -/
  | motGetMoveabsparams (dest source : Byte) (payload : List Byte)
  /-- `MOT_MOVE_ABSOLUTE`, identifier 0x0453 (R340). -/
  | motMoveAbsolute (param1 param2 dest source : Byte)
  /-- `MOT_MOVE_VELOCITY`, identifier 0x0457 (R341). -/
  | motMoveVelocity (param1 param2 dest source : Byte)
  /-- `MOT_MOVE_COMPLETED`, identifier 0x0464 (R342). -/
  | motMoveCompleted (dest source : Byte) (payload : List Byte)
  /-- `MOT_MOVE_STOP`, identifier 0x0465 (R343). -/
  | motMoveStop (param1 param2 dest source : Byte)
  /-- `MOT_MOVE_STOPPED`, identifier 0x0466 (R344). -/
  | motMoveStopped (dest source : Byte) (payload : List Byte)
  /-- `MOT_MOVE_JOG`, identifier 0x046A (R345). -/
  | motMoveJog (param1 param2 dest source : Byte)
  deriving DecidableEq, Repr

end Sys2Proof
end

