-- ==== Sys2Proof/Decode.lean ====
section
/-! DEFINITION. The Frame Codec, the Address Resolver and the Message Registry: byte order, the module-address map, the
catalogue, the cut of the stream into instructions, `decode` and `encode`. Every function here is total on any bytes. -/

namespace Sys2Proof

/-! ### Byte order (R17, R70) -/

/-- `le16(b0, b1) = b0 + 256*b1` (R17, R93). -/
def le16 (b0 b1 : Byte) : BitVec 16 := BitVec.ofNat 16 (b0.toNat + 256 * b1.toNat)

/-- `bytes_le(v, n)`: the `n` low bytes of `v`, least significant first (R17). -/
def bytesLe (v : Nat) : Nat → List Byte
  | 0 => []
  | n + 1 => BitVec.ofNat 8 v :: bytesLe (v / 256) n

/-- `from_le(bs)`: the sum of `bs[i] * 256^i` (R17). -/
def fromLe : List Byte → Nat
  | [] => 0
  | b :: bs => b.toNat + 256 * fromLe bs

/-- `MAX_PAYLOAD` (R10). -/
def maxPayload : Nat := 65535

/-- `HDR_BYTES` (R10). -/
def hdrBytes : Nat := 6

/-! ### The module-address map (R150 to R157) -/

/-- The code of a module (R150, R157). -/
def ModuleAddress.code : ModuleAddress → Byte
  | .host => 0x01
  | .motherboard => 0x11
  | .bay n => BitVec.ofNat 8 (0x21 + n.val)
  | .genericUSB => 0x50

/-- `validate` (R151); `none` is `InvalidAddress`. -/
def validate (b : Byte) : Option ModuleAddress :=
  if b = 0x01 then some .host
  else if b = 0x11 then some .motherboard
  else if h : 0x21 ≤ b.toNat ∧ b.toNat ≤ 0x2A then some (.bay ⟨b.toNat - 0x21, by omega⟩)
  else if b = 0x50 then some .genericUSB
  else none

/-- `format_dest` (R152, R95): the code with the shape marker in bit 7. -/
def formatDest (a : ModuleAddress) (shape : Shape) : Byte :=
  match shape with
  | .fixed => a.code
  | .variableLen => a.code ||| 0x80

/-- `strip_dest` (R153): the logical address of bits 6:0 and the shape that bit 7 hints at; `none` is `InvalidAddress`. -/
def stripDest (b : Byte) : Option (ModuleAddress × Shape) :=
  (validate (b &&& 0x7F)).map fun a => (a, if b.msb then .variableLen else .fixed)

/-! ### Schemas (R98 to R101) -/

/-- `width` (R99). -/
def FieldType.width : FieldType → Nat
  | .uint1 => 1
  | .uint2 => 2
  | .uint4 => 4
  | .bytes n => n

/-- Whether a field type is one of R99: `Bytes(n)` has `n` at least 1. -/
def FieldType.legal : FieldType → Bool
  | .bytes n => decide (1 ≤ n)
  | _ => true

/-- Whether a value fits a field's type: `v < 2^(8w)` for `UInt(w)`, `|v| = n` for `Bytes(n)` (R121). -/
def FieldType.fits (ty : FieldType) (v : FieldValue) : Bool :=
  match ty, v with
  | .bytes n, .bytes bs => bs.length == n
  | .uint1, .uint v => decide (v < 256 ^ 1)
  | .uint2, .uint v => decide (v < 256 ^ 2)
  | .uint4, .uint v => decide (v < 256 ^ 4)
  | _, _ => false

/-- `ser` (R98): `bytes_le(v, w)` for a number, the bytes themselves for a byte string. -/
def FieldType.ser (ty : FieldType) (v : FieldValue) : List Byte :=
  match v with
  | .uint v => bytesLe v ty.width
  | .bytes bs => bs

/-- The value of a field's bytes (R129). -/
def FieldType.read (ty : FieldType) (bs : List Byte) : FieldValue :=
  match ty with
  | .bytes _ => .bytes bs
  | _ => .uint (fromLe bs)

/-- The total width of a field schema (R94). -/
def schemaWidth : List (FieldName × FieldType) → Nat
  | [] => 0
  | (_, ty) :: fs => ty.width + schemaWidth fs

/-- `serialise` of a field schema: the fields' bytes in declared order, no padding (R98, R124). -/
def serFields : List (FieldName × FieldType) → List (FieldName × FieldValue) → List Byte
  | (_, ty) :: fs, (_, v) :: vs => ty.ser v ++ serFields fs vs
  | _, _ => []

/-- The fields of a payload: field `i` starts where the fields before it end (R98, R129). -/
def readFields : List (FieldName × FieldType) → List Byte → List (FieldName × FieldValue)
  | [], _ => []
  | (name, ty) :: fs, bs => (name, ty.read (bs.take ty.width)) :: readFields fs (bs.drop ty.width)

/-- The decoded `fields` of a payload; the payload bytes as they are where there is no field schema (R129, R101). -/
def readPayload (schema : Schema) (payload : List Byte) : FieldValues :=
  match schema with
  | .fields fs => .record (readFields fs payload)
  | _ => .raw payload

/-! ### The default catalogue (R301 to R345, log 1) -/

/-- The mnemonic of a kind's name (R302 to R345). -/
def KindName.mnemonic : KindName → String
  | .modIdentify => "MOD_IDENTIFY"
  | .modSetChanenablestate => "MOD_SET_CHANENABLESTATE"
  | .modReqChanenablestate => "MOD_REQ_CHANENABLESTATE"
  | .modGetChanenablestate => "MOD_GET_CHANENABLESTATE"
  | .hwDisconnect => "HW_DISCONNECT"
  | .hwResponse => "HW_RESPONSE"
  | .hwRichresponse => "HW_RICHRESPONSE"
  | .hwStartUpdatemsgs => "HW_START_UPDATEMSGS"
  | .hwStopUpdatemsgs => "HW_STOP_UPDATEMSGS"
  | .hwReqInfo => "HW_REQ_INFO"
  | .hwGetInfo => "HW_GET_INFO"
  | .rackReqBayused => "RACK_REQ_BAYUSED"
  | .rackGetBayused => "RACK_GET_BAYUSED"
  | .hubReqBayused => "HUB_REQ_BAYUSED"
  | .hubGetBayused => "HUB_GET_BAYUSED"
  | .motSetVelparams => "MOT_SET_VELPARAMS"
  | .motReqVelparams => "MOT_REQ_VELPARAMS"
  | .motGetVelparams => "MOT_GET_VELPARAMS"
  | .motSetJogparams => "MOT_SET_JOGPARAMS"
  | .motReqJogparams => "MOT_REQ_JOGPARAMS"
  | .motGetJogparams => "MOT_GET_JOGPARAMS"
  | .motSetLimswitchparams => "MOT_SET_LIMSWITCHPARAMS"
  | .motReqLimswitchparams => "MOT_REQ_LIMSWITCHPARAMS"
  | .motGetLimswitchparams => "MOT_GET_LIMSWITCHPARAMS"
  | .motReqAdcinputs => "MOT_REQ_ADCINPUTS"
  | .motGetAdcinputs => "MOT_GET_ADCINPUTS"
  | .motSetHomeparams => "MOT_SET_HOMEPARAMS"
  | .motReqHomeparams => "MOT_REQ_HOMEPARAMS"
  | .motGetHomeparams => "MOT_GET_HOMEPARAMS"
  | .motMoveHome => "MOT_MOVE_HOME"
  | .motMoveHomed => "MOT_MOVE_HOMED"
  | .motSetMoverelparams => "MOT_SET_MOVERELPARAMS"
  | .motReqMoverelparams => "MOT_REQ_MOVERELPARAMS"
  | .motGetMoverelparams => "MOT_GET_MOVERELPARAMS"
  | .motMoveRelative => "MOT_MOVE_RELATIVE"
  | .motSetMoveabsparams => "MOT_SET_MOVEABSPARAMS"
  | .motReqMoveabsparams => "MOT_REQ_MOVEABSPARAMS"
  | .motGetMoveabsparams => "MOT_GET_MOVEABSPARAMS"
  | .motMoveAbsolute => "MOT_MOVE_ABSOLUTE"
  | .motMoveVelocity => "MOT_MOVE_VELOCITY"
  | .motMoveCompleted => "MOT_MOVE_COMPLETED"
  | .motMoveStop => "MOT_MOVE_STOP"
  | .motMoveStopped => "MOT_MOVE_STOPPED"
  | .motMoveJog => "MOT_MOVE_JOG"
  | .other name => name

/-- The payload schema of `HW_RICHRESPONSE` (R308). -/
def schemaRichResponse : List (FieldName × FieldType) :=
  [(.msgIdent, .uint2), (.code, .uint2), (.notes, .bytes 64)]

/-- The payload schema of `HW_GET_INFO` (R312). -/
def schemaHwInfo : List (FieldName × FieldType) :=
  [(.serial, .uint4), (.model, .bytes 8), (.hwType, .uint2), (.fw, .bytes 4), (.notes, .bytes 48),
   (.empty, .bytes 12), (.hwVer, .uint2), (.modState, .uint2), (.numCh, .uint2)]

/-- The payload schema of `MOT_SET_VELPARAMS` and `MOT_GET_VELPARAMS` (R317, R319). -/
def schemaVel : List (FieldName × FieldType) :=
  [(.chanIdent, .uint2), (.minVel, .uint4), (.accn, .uint4), (.maxVel, .uint4)]

/-- The payload schema of `MOT_SET_JOGPARAMS` and `MOT_GET_JOGPARAMS` (R320, R322). -/
def schemaJog : List (FieldName × FieldType) :=
  [(.chanIdent, .uint2), (.jogMode, .uint2), (.jogStepSize, .uint4), (.jogMinVel, .uint4), (.jogAccn, .uint4),
   (.jogMaxVel, .uint4), (.stopMode, .uint2)]

/-- The payload schema of `MOT_SET_LIMSWITCHPARAMS` and `MOT_GET_LIMSWITCHPARAMS` (R323, R325). -/
def schemaLimSwitch : List (FieldName × FieldType) :=
  [(.chanIdent, .uint2), (.cwHardLimit, .uint2), (.ccwHardLimit, .uint2), (.cwSoftLimit, .uint4),
   (.ccwSoftLimit, .uint4), (.limitMode, .uint2)]

/-- The payload schema of `MOT_GET_ADCINPUTS` (R327). -/
def schemaAdc : List (FieldName × FieldType) :=
  [(.adcInput1, .uint2), (.adcInput2, .uint2)]

/-- The payload schema of `MOT_SET_HOMEPARAMS` and `MOT_GET_HOMEPARAMS` (R328, R330). -/
def schemaHome : List (FieldName × FieldType) :=
  [(.chanIdent, .uint2), (.homeDir, .uint2), (.limitSwitch, .uint2), (.homeVelocity, .uint4),
   (.offsetDistance, .uint4)]

/-- The payload schema of `MOT_SET_MOVERELPARAMS` and `MOT_GET_MOVERELPARAMS` (R333, R335). -/
def schemaMoveRel : List (FieldName × FieldType) :=
  [(.chanIdent, .uint2), (.relativeDistance, .uint4)]

/-- The payload schema of `MOT_SET_MOVEABSPARAMS` and `MOT_GET_MOVEABSPARAMS` (R337, R339). -/
def schemaMoveAbs : List (FieldName × FieldType) :=
  [(.chanIdent, .uint2), (.absolutePosition, .uint4)]

/-- The payload schema of `MOT_MOVE_COMPLETED` and `MOT_MOVE_STOPPED` (R342, R344). -/
def schemaStatus : List (FieldName × FieldType) :=
  [(.chanIdent, .uint2), (.position, .uint4), (.encCount, .uint4), (.statusBits, .uint4)]

/-- `MOD_IDENTIFY` (R302). -/
def kindModIdentify : Kind :=
  { id := 0x0223, name := .modIdentify, shape := .fixed, schema := .fixed2,
    role := .command, dir := .hostToDevice, family := none, responses := [],
    chanField := .none, slot := none }

/-- `MOD_SET_CHANENABLESTATE` (R303). -/
def kindModSetChanenablestate : Kind :=
  { id := 0x0220, name := .modSetChanenablestate, shape := .fixed, schema := .fixed2,
    role := .set, dir := .hostToDevice, family := some .enable, responses := [],
    chanField := .param1, slot := none }

/-- `MOD_REQ_CHANENABLESTATE` (R304). -/
def kindModReqChanenablestate : Kind :=
  { id := 0x0221, name := .modReqChanenablestate, shape := .fixed, schema := .fixed2,
    role := .request, dir := .hostToDevice, family := some .enable, responses := [0x0212],
    chanField := .param1, slot := none }

/-- `MOD_GET_CHANENABLESTATE` (R305). -/
def kindModGetChanenablestate : Kind :=
  { id := 0x0212, name := .modGetChanenablestate, shape := .fixed, schema := .fixed2,
    role := .response, dir := .deviceToHost, family := some .enable, responses := [],
    chanField := .param1, slot := some .enable }

/-- `HW_DISCONNECT` (R306). -/
def kindHwDisconnect : Kind :=
  { id := 0x0002, name := .hwDisconnect, shape := .fixed, schema := .fixed2,
    role := .report, dir := .deviceToHost, family := none, responses := [],
    chanField := .none, slot := none }

/-- `HW_RESPONSE` (R307). -/
def kindHwResponse : Kind :=
  { id := 0x0080, name := .hwResponse, shape := .fixed, schema := .fixed2,
    role := .report, dir := .deviceToHost, family := none, responses := [],
    chanField := .none, slot := none }

/-- `HW_RICHRESPONSE` (R308). -/
def kindHwRichresponse : Kind :=
  { id := 0x0081, name := .hwRichresponse, shape := .variableLen, schema := .fields schemaRichResponse,
    role := .report, dir := .deviceToHost, family := none, responses := [],
    chanField := .none, slot := none }

/-- `HW_START_UPDATEMSGS` (R309). -/
def kindHwStartUpdatemsgs : Kind :=
  { id := 0x0011, name := .hwStartUpdatemsgs, shape := .fixed, schema := .fixed2,
    role := .command, dir := .hostToDevice, family := none, responses := [],
    chanField := .none, slot := none }

/-- `HW_STOP_UPDATEMSGS` (R310). -/
def kindHwStopUpdatemsgs : Kind :=
  { id := 0x0012, name := .hwStopUpdatemsgs, shape := .fixed, schema := .fixed2,
    role := .command, dir := .hostToDevice, family := none, responses := [],
    chanField := .none, slot := none }

/-- `HW_REQ_INFO` (R311). -/
def kindHwReqInfo : Kind :=
  { id := 0x0005, name := .hwReqInfo, shape := .fixed, schema := .fixed2,
    role := .request, dir := .hostToDevice, family := some .hwinfo, responses := [0x0006],
    chanField := .none, slot := none }

/-- `HW_GET_INFO` (R312). -/
def kindHwGetInfo : Kind :=
  { id := 0x0006, name := .hwGetInfo, shape := .variableLen, schema := .fields schemaHwInfo,
    role := .response, dir := .deviceToHost, family := some .hwinfo, responses := [],
    chanField := .none, slot := none }

/-- `RACK_REQ_BAYUSED` (R313). -/
def kindRackReqBayused : Kind :=
  { id := 0x0060, name := .rackReqBayused, shape := .fixed, schema := .fixed2,
    role := .request, dir := .hostToDevice, family := some .rackbay, responses := [0x0061],
    chanField := .none, slot := none }

/-- `RACK_GET_BAYUSED` (R314). -/
def kindRackGetBayused : Kind :=
  { id := 0x0061, name := .rackGetBayused, shape := .fixed, schema := .fixed2,
    role := .response, dir := .deviceToHost, family := some .rackbay, responses := [],
    chanField := .none, slot := none }

/-- `HUB_REQ_BAYUSED` (R315). -/
def kindHubReqBayused : Kind :=
  { id := 0x0065, name := .hubReqBayused, shape := .fixed, schema := .fixed2,
    role := .request, dir := .hostToDevice, family := some .hubbay, responses := [0x0066],
    chanField := .none, slot := none }

/-- `HUB_GET_BAYUSED` (R316). -/
def kindHubGetBayused : Kind :=
  { id := 0x0066, name := .hubGetBayused, shape := .fixed, schema := .fixed2,
    role := .response, dir := .deviceToHost, family := some .hubbay, responses := [],
    chanField := .none, slot := none }

/-- `MOT_SET_VELPARAMS` (R317). -/
def kindMotSetVelparams : Kind :=
  { id := 0x0413, name := .motSetVelparams, shape := .variableLen, schema := .fields schemaVel,
    role := .set, dir := .hostToDevice, family := some .vel, responses := [],
    chanField := .field .chanIdent, slot := none }

/-- `MOT_REQ_VELPARAMS` (R318). -/
def kindMotReqVelparams : Kind :=
  { id := 0x0414, name := .motReqVelparams, shape := .fixed, schema := .fixed2,
    role := .request, dir := .hostToDevice, family := some .vel, responses := [0x0415],
    chanField := .param1, slot := none }

/-- `MOT_GET_VELPARAMS` (R319). -/
def kindMotGetVelparams : Kind :=
  { id := 0x0415, name := .motGetVelparams, shape := .variableLen, schema := .fields schemaVel,
    role := .response, dir := .deviceToHost, family := some .vel, responses := [],
    chanField := .field .chanIdent, slot := some .vel }

/-- `MOT_SET_JOGPARAMS` (R320). -/
def kindMotSetJogparams : Kind :=
  { id := 0x0416, name := .motSetJogparams, shape := .variableLen, schema := .fields schemaJog,
    role := .set, dir := .hostToDevice, family := some .jog, responses := [],
    chanField := .field .chanIdent, slot := none }

/-- `MOT_REQ_JOGPARAMS` (R321). -/
def kindMotReqJogparams : Kind :=
  { id := 0x0417, name := .motReqJogparams, shape := .fixed, schema := .fixed2,
    role := .request, dir := .hostToDevice, family := some .jog, responses := [0x0418],
    chanField := .param1, slot := none }

/-- `MOT_GET_JOGPARAMS` (R322). -/
def kindMotGetJogparams : Kind :=
  { id := 0x0418, name := .motGetJogparams, shape := .variableLen, schema := .fields schemaJog,
    role := .response, dir := .deviceToHost, family := some .jog, responses := [],
    chanField := .field .chanIdent, slot := some .jog }

/-- `MOT_SET_LIMSWITCHPARAMS` (R323). -/
def kindMotSetLimswitchparams : Kind :=
  { id := 0x0423, name := .motSetLimswitchparams, shape := .variableLen, schema := .fields schemaLimSwitch,
    role := .set, dir := .hostToDevice, family := some .lim, responses := [],
    chanField := .field .chanIdent, slot := none }

/-- `MOT_REQ_LIMSWITCHPARAMS` (R324). -/
def kindMotReqLimswitchparams : Kind :=
  { id := 0x0424, name := .motReqLimswitchparams, shape := .fixed, schema := .fixed2,
    role := .request, dir := .hostToDevice, family := some .lim, responses := [0x0425],
    chanField := .param1, slot := none }

/-- `MOT_GET_LIMSWITCHPARAMS` (R325). -/
def kindMotGetLimswitchparams : Kind :=
  { id := 0x0425, name := .motGetLimswitchparams, shape := .variableLen, schema := .fields schemaLimSwitch,
    role := .response, dir := .deviceToHost, family := some .lim, responses := [],
    chanField := .field .chanIdent, slot := some .lim }

/-- `MOT_REQ_ADCINPUTS` (R326). -/
def kindMotReqAdcinputs : Kind :=
  { id := 0x042B, name := .motReqAdcinputs, shape := .fixed, schema := .fixed2,
    role := .request, dir := .hostToDevice, family := some .adc, responses := [0x042C],
    chanField := .param1, slot := none }

/-- `MOT_GET_ADCINPUTS` (R327). -/
def kindMotGetAdcinputs : Kind :=
  { id := 0x042C, name := .motGetAdcinputs, shape := .variableLen, schema := .fields schemaAdc,
    role := .response, dir := .deviceToHost, family := some .adc, responses := [],
    chanField := .none, slot := some .adc }

/-- `MOT_SET_HOMEPARAMS` (R328). -/
def kindMotSetHomeparams : Kind :=
  { id := 0x0440, name := .motSetHomeparams, shape := .variableLen, schema := .fields schemaHome,
    role := .set, dir := .hostToDevice, family := some .home, responses := [],
    chanField := .field .chanIdent, slot := none }

/-- `MOT_REQ_HOMEPARAMS` (R329). -/
def kindMotReqHomeparams : Kind :=
  { id := 0x0441, name := .motReqHomeparams, shape := .fixed, schema := .fixed2,
    role := .request, dir := .hostToDevice, family := some .home, responses := [0x0442],
    chanField := .param1, slot := none }

/-- `MOT_GET_HOMEPARAMS` (R330). -/
def kindMotGetHomeparams : Kind :=
  { id := 0x0442, name := .motGetHomeparams, shape := .variableLen, schema := .fields schemaHome,
    role := .response, dir := .deviceToHost, family := some .home, responses := [],
    chanField := .field .chanIdent, slot := some .home }

/-- `MOT_MOVE_HOME` (R331). -/
def kindMotMoveHome : Kind :=
  { id := 0x0443, name := .motMoveHome, shape := .fixed, schema := .fixed2,
    role := .command, dir := .hostToDevice, family := none, responses := [],
    chanField := .param1, slot := none }

/-- `MOT_MOVE_HOMED` (R332). -/
def kindMotMoveHomed : Kind :=
  { id := 0x0444, name := .motMoveHomed, shape := .fixed, schema := .fixed2,
    role := .report, dir := .deviceToHost, family := none, responses := [],
    chanField := .param1, slot := none }

/-- `MOT_SET_MOVERELPARAMS` (R333). -/
def kindMotSetMoverelparams : Kind :=
  { id := 0x0445, name := .motSetMoverelparams, shape := .variableLen, schema := .fields schemaMoveRel,
    role := .set, dir := .hostToDevice, family := some .rel, responses := [],
    chanField := .field .chanIdent, slot := none }

/-- `MOT_REQ_MOVERELPARAMS` (R334). -/
def kindMotReqMoverelparams : Kind :=
  { id := 0x0446, name := .motReqMoverelparams, shape := .fixed, schema := .fixed2,
    role := .request, dir := .hostToDevice, family := some .rel, responses := [0x0447],
    chanField := .param1, slot := none }

/-- `MOT_GET_MOVERELPARAMS` (R335). -/
def kindMotGetMoverelparams : Kind :=
  { id := 0x0447, name := .motGetMoverelparams, shape := .variableLen, schema := .fields schemaMoveRel,
    role := .response, dir := .deviceToHost, family := some .rel, responses := [],
    chanField := .field .chanIdent, slot := some .rel }

/-- `MOT_MOVE_RELATIVE` (R336). -/
def kindMotMoveRelative : Kind :=
  { id := 0x0448, name := .motMoveRelative, shape := .fixed, schema := .fixed2,
    role := .command, dir := .hostToDevice, family := none, responses := [],
    chanField := .param1, slot := none }

/-- `MOT_SET_MOVEABSPARAMS` (R337). -/
def kindMotSetMoveabsparams : Kind :=
  { id := 0x0450, name := .motSetMoveabsparams, shape := .variableLen, schema := .fields schemaMoveAbs,
    role := .set, dir := .hostToDevice, family := some .abs, responses := [],
    chanField := .field .chanIdent, slot := none }

/-- `MOT_REQ_MOVEABSPARAMS` (R338). -/
def kindMotReqMoveabsparams : Kind :=
  { id := 0x0451, name := .motReqMoveabsparams, shape := .fixed, schema := .fixed2,
    role := .request, dir := .hostToDevice, family := some .abs, responses := [0x0452],
    chanField := .param1, slot := none }

/-- `MOT_GET_MOVEABSPARAMS` (R339). -/
def kindMotGetMoveabsparams : Kind :=
  { id := 0x0452, name := .motGetMoveabsparams, shape := .variableLen, schema := .fields schemaMoveAbs,
    role := .response, dir := .deviceToHost, family := some .abs, responses := [],
    chanField := .field .chanIdent, slot := some .abs }

/-- `MOT_MOVE_ABSOLUTE` (R340). -/
def kindMotMoveAbsolute : Kind :=
  { id := 0x0453, name := .motMoveAbsolute, shape := .fixed, schema := .fixed2,
    role := .command, dir := .hostToDevice, family := none, responses := [],
    chanField := .param1, slot := none }

/-- `MOT_MOVE_VELOCITY` (R341). -/
def kindMotMoveVelocity : Kind :=
  { id := 0x0457, name := .motMoveVelocity, shape := .fixed, schema := .fixed2,
    role := .command, dir := .hostToDevice, family := none, responses := [],
    chanField := .param1, slot := none }

/-- `MOT_MOVE_COMPLETED` (R342). -/
def kindMotMoveCompleted : Kind :=
  { id := 0x0464, name := .motMoveCompleted, shape := .variableLen, schema := .fields schemaStatus,
    role := .report, dir := .deviceToHost, family := none, responses := [],
    chanField := .field .chanIdent, slot := some .status }

/-- `MOT_MOVE_STOP` (R343). -/
def kindMotMoveStop : Kind :=
  { id := 0x0465, name := .motMoveStop, shape := .fixed, schema := .fixed2,
    role := .command, dir := .hostToDevice, family := none, responses := [],
    chanField := .param1, slot := none }

/-- `MOT_MOVE_STOPPED` (R344). -/
def kindMotMoveStopped : Kind :=
  { id := 0x0466, name := .motMoveStopped, shape := .variableLen, schema := .fields schemaStatus,
    role := .report, dir := .deviceToHost, family := none, responses := [],
    chanField := .field .chanIdent, slot := some .status }

/-- `MOT_MOVE_JOG` (R345). -/
def kindMotMoveJog : Kind :=
  { id := 0x046A, name := .motMoveJog, shape := .fixed, schema := .fixed2,
    role := .command, dir := .hostToDevice, family := none, responses := [],
    chanField := .param1, slot := none }

/-! ### Instructions and their bytes -/

/-- The operand bytes of a frame: bytes 2 to 5 of a fixed frame (R91), bytes 4 and 5 and the payload of a variable
frame (R92). -/
inductive RawFrame where
  | fixed (param1 param2 dest source : Byte)
  | variableLen (dest source : Byte) (payload : List Byte)
  deriving DecidableEq, Repr

/-- How an instruction is made of its operand bytes, by the kind's shape (R90). -/
inductive Build where
  | fixed (make : Byte → Byte → Byte → Byte → Instr)
  | variableLen (make : Byte → Byte → List Byte → Instr)

/-- A row of the registry: a kind and the instruction its frames are (R170). -/
structure Row where
  kind : Kind
  build : Build

/-- The module rows of the registry. -/
def rowsModule : List Row :=
  [⟨kindModIdentify, .fixed .modIdentify⟩,
   ⟨kindModSetChanenablestate, .fixed .modSetChanenablestate⟩,
   ⟨kindModReqChanenablestate, .fixed .modReqChanenablestate⟩,
   ⟨kindModGetChanenablestate, .fixed .modGetChanenablestate⟩]

/-- The hardware rows of the registry. -/
def rowsHardware : List Row :=
  [⟨kindHwDisconnect, .fixed .hwDisconnect⟩,
   ⟨kindHwResponse, .fixed .hwResponse⟩,
   ⟨kindHwRichresponse, .variableLen .hwRichresponse⟩,
   ⟨kindHwStartUpdatemsgs, .fixed .hwStartUpdatemsgs⟩,
   ⟨kindHwStopUpdatemsgs, .fixed .hwStopUpdatemsgs⟩,
   ⟨kindHwReqInfo, .fixed .hwReqInfo⟩,
   ⟨kindHwGetInfo, .variableLen .hwGetInfo⟩]

/-- The rackhub rows of the registry. -/
def rowsRackHub : List Row :=
  [⟨kindRackReqBayused, .fixed .rackReqBayused⟩,
   ⟨kindRackGetBayused, .fixed .rackGetBayused⟩,
   ⟨kindHubReqBayused, .fixed .hubReqBayused⟩,
   ⟨kindHubGetBayused, .fixed .hubGetBayused⟩]

/-- The params rows of the registry. -/
def rowsParams : List Row :=
  [⟨kindMotSetVelparams, .variableLen .motSetVelparams⟩,
   ⟨kindMotReqVelparams, .fixed .motReqVelparams⟩,
   ⟨kindMotGetVelparams, .variableLen .motGetVelparams⟩,
   ⟨kindMotSetJogparams, .variableLen .motSetJogparams⟩,
   ⟨kindMotReqJogparams, .fixed .motReqJogparams⟩,
   ⟨kindMotGetJogparams, .variableLen .motGetJogparams⟩,
   ⟨kindMotSetLimswitchparams, .variableLen .motSetLimswitchparams⟩,
   ⟨kindMotReqLimswitchparams, .fixed .motReqLimswitchparams⟩,
   ⟨kindMotGetLimswitchparams, .variableLen .motGetLimswitchparams⟩,
   ⟨kindMotReqAdcinputs, .fixed .motReqAdcinputs⟩,
   ⟨kindMotGetAdcinputs, .variableLen .motGetAdcinputs⟩,
   ⟨kindMotSetHomeparams, .variableLen .motSetHomeparams⟩,
   ⟨kindMotReqHomeparams, .fixed .motReqHomeparams⟩,
   ⟨kindMotGetHomeparams, .variableLen .motGetHomeparams⟩,
   ⟨kindMotSetMoverelparams, .variableLen .motSetMoverelparams⟩,
   ⟨kindMotReqMoverelparams, .fixed .motReqMoverelparams⟩,
   ⟨kindMotGetMoverelparams, .variableLen .motGetMoverelparams⟩,
   ⟨kindMotSetMoveabsparams, .variableLen .motSetMoveabsparams⟩,
   ⟨kindMotReqMoveabsparams, .fixed .motReqMoveabsparams⟩,
   ⟨kindMotGetMoveabsparams, .variableLen .motGetMoveabsparams⟩]

/-- The motion rows of the registry. -/
def rowsMotion : List Row :=
  [⟨kindMotMoveHome, .fixed .motMoveHome⟩,
   ⟨kindMotMoveHomed, .fixed .motMoveHomed⟩,
   ⟨kindMotMoveRelative, .fixed .motMoveRelative⟩,
   ⟨kindMotMoveAbsolute, .fixed .motMoveAbsolute⟩,
   ⟨kindMotMoveVelocity, .fixed .motMoveVelocity⟩,
   ⟨kindMotMoveCompleted, .variableLen .motMoveCompleted⟩,
   ⟨kindMotMoveStop, .fixed .motMoveStop⟩,
   ⟨kindMotMoveStopped, .variableLen .motMoveStopped⟩,
   ⟨kindMotMoveJog, .fixed .motMoveJog⟩]

/-- The registry of the opcode table: the 44 kinds of the default catalogue with their instructions (R170, R301). -/
def rows : List Row := rowsModule ++ rowsHardware ++ rowsRackHub ++ rowsParams ++ rowsMotion

/-- The default `CATALOGUE` (R301). -/
def catalogue : List Kind := rows.map Row.kind

/-- The opcode table's row of an identifier (R104: all 16 bits are significant). -/
def lookupRow (id : MsgId) : Option Row := rows.find? fun r => r.kind.id == id

/-- `lookup` in a catalogue (R172). -/
def lookup (cat : List Kind) (id : MsgId) : Option Kind := cat.find? fun k => k.id == id

/-- The kind of a name in a catalogue. -/
def named (cat : List Kind) (name : KindName) : Option Kind := cat.find? fun k => k.name == name

/-- The kind of an instruction (R23). -/
def Instr.kind : Instr → Kind
  | .modIdentify _ _ _ _ => kindModIdentify
  | .modSetChanenablestate _ _ _ _ => kindModSetChanenablestate
  | .modReqChanenablestate _ _ _ _ => kindModReqChanenablestate
  | .modGetChanenablestate _ _ _ _ => kindModGetChanenablestate
  | .hwDisconnect _ _ _ _ => kindHwDisconnect
  | .hwResponse _ _ _ _ => kindHwResponse
  | .hwRichresponse _ _ _ => kindHwRichresponse
  | .hwStartUpdatemsgs _ _ _ _ => kindHwStartUpdatemsgs
  | .hwStopUpdatemsgs _ _ _ _ => kindHwStopUpdatemsgs
  | .hwReqInfo _ _ _ _ => kindHwReqInfo
  | .hwGetInfo _ _ _ => kindHwGetInfo
  | .rackReqBayused _ _ _ _ => kindRackReqBayused
  | .rackGetBayused _ _ _ _ => kindRackGetBayused
  | .hubReqBayused _ _ _ _ => kindHubReqBayused
  | .hubGetBayused _ _ _ _ => kindHubGetBayused
  | .motSetVelparams _ _ _ => kindMotSetVelparams
  | .motReqVelparams _ _ _ _ => kindMotReqVelparams
  | .motGetVelparams _ _ _ => kindMotGetVelparams
  | .motSetJogparams _ _ _ => kindMotSetJogparams
  | .motReqJogparams _ _ _ _ => kindMotReqJogparams
  | .motGetJogparams _ _ _ => kindMotGetJogparams
  | .motSetLimswitchparams _ _ _ => kindMotSetLimswitchparams
  | .motReqLimswitchparams _ _ _ _ => kindMotReqLimswitchparams
  | .motGetLimswitchparams _ _ _ => kindMotGetLimswitchparams
  | .motReqAdcinputs _ _ _ _ => kindMotReqAdcinputs
  | .motGetAdcinputs _ _ _ => kindMotGetAdcinputs
  | .motSetHomeparams _ _ _ => kindMotSetHomeparams
  | .motReqHomeparams _ _ _ _ => kindMotReqHomeparams
  | .motGetHomeparams _ _ _ => kindMotGetHomeparams
  | .motMoveHome _ _ _ _ => kindMotMoveHome
  | .motMoveHomed _ _ _ _ => kindMotMoveHomed
  | .motSetMoverelparams _ _ _ => kindMotSetMoverelparams
  | .motReqMoverelparams _ _ _ _ => kindMotReqMoverelparams
  | .motGetMoverelparams _ _ _ => kindMotGetMoverelparams
  | .motMoveRelative _ _ _ _ => kindMotMoveRelative
  | .motSetMoveabsparams _ _ _ => kindMotSetMoveabsparams
  | .motReqMoveabsparams _ _ _ _ => kindMotReqMoveabsparams
  | .motGetMoveabsparams _ _ _ => kindMotGetMoveabsparams
  | .motMoveAbsolute _ _ _ _ => kindMotMoveAbsolute
  | .motMoveVelocity _ _ _ _ => kindMotMoveVelocity
  | .motMoveCompleted _ _ _ => kindMotMoveCompleted
  | .motMoveStop _ _ _ _ => kindMotMoveStop
  | .motMoveStopped _ _ _ => kindMotMoveStopped
  | .motMoveJog _ _ _ _ => kindMotMoveJog

/-- The operand bytes of an instruction. -/
def Instr.raw : Instr → RawFrame
  | .modIdentify p1 p2 d s => .fixed p1 p2 d s
  | .modSetChanenablestate p1 p2 d s => .fixed p1 p2 d s
  | .modReqChanenablestate p1 p2 d s => .fixed p1 p2 d s
  | .modGetChanenablestate p1 p2 d s => .fixed p1 p2 d s
  | .hwDisconnect p1 p2 d s => .fixed p1 p2 d s
  | .hwResponse p1 p2 d s => .fixed p1 p2 d s
  | .hwRichresponse d s payload => .variableLen d s payload
  | .hwStartUpdatemsgs p1 p2 d s => .fixed p1 p2 d s
  | .hwStopUpdatemsgs p1 p2 d s => .fixed p1 p2 d s
  | .hwReqInfo p1 p2 d s => .fixed p1 p2 d s
  | .hwGetInfo d s payload => .variableLen d s payload
  | .rackReqBayused p1 p2 d s => .fixed p1 p2 d s
  | .rackGetBayused p1 p2 d s => .fixed p1 p2 d s
  | .hubReqBayused p1 p2 d s => .fixed p1 p2 d s
  | .hubGetBayused p1 p2 d s => .fixed p1 p2 d s
  | .motSetVelparams d s payload => .variableLen d s payload
  | .motReqVelparams p1 p2 d s => .fixed p1 p2 d s
  | .motGetVelparams d s payload => .variableLen d s payload
  | .motSetJogparams d s payload => .variableLen d s payload
  | .motReqJogparams p1 p2 d s => .fixed p1 p2 d s
  | .motGetJogparams d s payload => .variableLen d s payload
  | .motSetLimswitchparams d s payload => .variableLen d s payload
  | .motReqLimswitchparams p1 p2 d s => .fixed p1 p2 d s
  | .motGetLimswitchparams d s payload => .variableLen d s payload
  | .motReqAdcinputs p1 p2 d s => .fixed p1 p2 d s
  | .motGetAdcinputs d s payload => .variableLen d s payload
  | .motSetHomeparams d s payload => .variableLen d s payload
  | .motReqHomeparams p1 p2 d s => .fixed p1 p2 d s
  | .motGetHomeparams d s payload => .variableLen d s payload
  | .motMoveHome p1 p2 d s => .fixed p1 p2 d s
  | .motMoveHomed p1 p2 d s => .fixed p1 p2 d s
  | .motSetMoverelparams d s payload => .variableLen d s payload
  | .motReqMoverelparams p1 p2 d s => .fixed p1 p2 d s
  | .motGetMoverelparams d s payload => .variableLen d s payload
  | .motMoveRelative p1 p2 d s => .fixed p1 p2 d s
  | .motSetMoveabsparams d s payload => .variableLen d s payload
  | .motReqMoveabsparams p1 p2 d s => .fixed p1 p2 d s
  | .motGetMoveabsparams d s payload => .variableLen d s payload
  | .motMoveAbsolute p1 p2 d s => .fixed p1 p2 d s
  | .motMoveVelocity p1 p2 d s => .fixed p1 p2 d s
  | .motMoveCompleted d s payload => .variableLen d s payload
  | .motMoveStop p1 p2 d s => .fixed p1 p2 d s
  | .motMoveStopped d s payload => .variableLen d s payload
  | .motMoveJog p1 p2 d s => .fixed p1 p2 d s

/-- The number of bytes of an instruction's frame: 6, or 6 and the payload (R91, R92, R102). -/
def RawFrame.length : RawFrame → Nat
  | .fixed _ _ _ _ => hdrBytes
  | .variableLen _ _ payload => hdrBytes + payload.length

/-- What the deframer finds at the head of `rx` (R133, R134): not enough bytes yet; an identifier that the registry does
not hold; or a whole frame, cut at the length its kind announces, and the bytes after it. -/
inductive Fetched where
  | wait
  | unknown (id : MsgId)
  | frame (i : Instr) (rest : List Byte)
  deriving DecidableEq, Repr

/-- The decoder of the stream, by the opcode table: cuts the instruction at the head of `B` by the registry's shape and
the announced length, never by the marker bit (R90, R102, R133, R134). -/
def fetch (B : List Byte) : Fetched :=
  match B with
  | b0 :: b1 :: B2 =>
    match lookupRow (le16 b0 b1) with
    | none => .unknown (le16 b0 b1)
    | some row =>
      match B2 with
      | b2 :: b3 :: b4 :: b5 :: tail =>
        match row.build with
        | .fixed make => .frame (make b2 b3 b4 b5) tail
        | .variableLen make =>
          let n := (le16 b2 b3).toNat
          if n ≤ tail.length then .frame (make b4 b5 (tail.take n)) (tail.drop n) else .wait
      | _ => .wait
  | _ => .wait

/-- What the deframer finds at the head of `rx` under any catalogue (R133, R134): as `Fetched`, with a kind and its
operand bytes for the instruction. -/
inductive Cut where
  | wait
  | unknown (id : MsgId)
  | frame (k : Kind) (raw : RawFrame) (rest : List Byte)
  deriving DecidableEq, Repr

/-- The cut of the stream by a catalogue (R90, R102, R133, R134). `fetch` is the cut by the default catalogue. -/
def cut (cat : List Kind) (B : List Byte) : Cut :=
  match B with
  | b0 :: b1 :: B2 =>
    match lookup cat (le16 b0 b1) with
    | none => .unknown (le16 b0 b1)
    | some k =>
      match B2 with
      | b2 :: b3 :: b4 :: b5 :: tail =>
        match k.shape with
        | .fixed => .frame k (.fixed b2 b3 b4 b5) tail
        | .variableLen =>
          let n := (le16 b2 b3).toNat
          if n ≤ tail.length then .frame k (.variableLen b4 b5 (tail.take n)) (tail.drop n) else .wait
      | _ => .wait
  | _ => .wait

/-- `ready` (R134). -/
def ready (cat : List Kind) (B : List Byte) : Bool := cut cat B != .wait

/-- The bytes of a frame of kind `id` with the operand bytes `raw` (R91, R92). -/
def RawFrame.bytes (id : MsgId) : RawFrame → List Byte
  | .fixed p1 p2 d s => bytesLe id.toNat 2 ++ [p1, p2, d, s]
  | .variableLen d s payload => bytesLe id.toNat 2 ++ bytesLe payload.length 2 ++ [d, s] ++ payload

/-- The encoder: the bytes of an instruction in wire order. -/
def encode (i : Instr) : List Byte := i.raw.bytes i.kind.id

/-! ### `decode` (R126 to R131) -/

/-- The schema-width check of `decode` (R127, D14): an announced length under or over the width of the kind's fields. -/
def widthError (k : Kind) (len : Nat) : Option DecodeError :=
  match k.schema with
  | .fields fs =>
    if len < schemaWidth fs then some (.truncatedFrame (some k.id) len (schemaWidth fs))
    else if schemaWidth fs < len then some (.trailingBytes k.id (len - schemaWidth fs))
    else none
  | _ => none

/-- The marker check and then the two address checks of `decode` (R127). -/
def readAddresses (k : Kind) (dest source : Byte) : Except DecodeError (ModuleAddress × ModuleAddress) :=
  if dest.msb ≠ (k.shape == .variableLen) then .error (.malformedAddressBit k.id dest)
  else
    match stripDest dest with
    | none => .error (.invalidAddress dest)
    | some (d, _) =>
      match validate source with
      | none => .error (.invalidAddress source)
      | some s => .ok (d, s)

/-- The checks of `decode` after the frame's extent is known, and `build_frame` (R127, R128, R129). -/
def checkRaw (k : Kind) (raw : RawFrame) : Except DecodeError Frame :=
  match raw with
  | .fixed p1 p2 dest source =>
    match readAddresses k dest source with
    | .error e => .error e
    | .ok (d, s) => .ok { id := k.id, dest := d, source := s, body := .fixed p1 p2 }
  | .variableLen dest source payload =>
    match widthError k payload.length with
    | some e => .error e
    | none =>
      match readAddresses k dest source with
      | .error e => .error e
      | .ok (d, s) =>
        .ok { id := k.id, dest := d, source := s,
              body := .variableLen (BitVec.ofNat 16 payload.length) (readPayload k.schema payload) }

/-- What `decode` answers for the frame of an instruction. -/
def Instr.check (i : Instr) : Except DecodeError Frame := checkRaw i.kind i.raw

/-- `decode` (R127): the first failing check wins. -/
def decodeFrame (cat : List Kind) (bs : List Byte) : Except DecodeError Frame :=
  match bs with
  | b0 :: b1 :: bs2 =>
    match lookup cat (le16 b0 b1) with
    | none => .error (.unknownMessageId (le16 b0 b1))
    | some k =>
      match bs2 with
      | b2 :: b3 :: b4 :: b5 :: payload =>
        match k.shape with
        | .fixed =>
          if payload.length = 0 then checkRaw k (.fixed b2 b3 b4 b5)
          else .error (.trailingBytes k.id payload.length)
        | .variableLen =>
          let len := (le16 b2 b3).toNat
          if payload.length < len then .error (.truncatedFrame (some k.id) payload.length len)
          else if len < payload.length then .error (.trailingBytes k.id (payload.length - len))
          else checkRaw k (.variableLen b4 b5 payload)
      | _ => .error (.truncatedFrame (some k.id) bs.length hdrBytes)
  | _ => .error (.truncatedFrame none bs.length 2)

/-! ### `encode` (R120 to R124) -/

/-- The `fields` operand of `encode` (R120): the params of a fixed kind, or the values of a payload. -/
inductive FrameFields where
  | params (ps : List Nat)
  | values (v : FieldValues)
  deriving DecidableEq, Repr

/-- The first field whose value does not fit its type (R121). -/
def firstMisfit : List (FieldName × FieldType) → List (FieldName × FieldValue) → Option FieldName
  | (name, ty) :: fs, (_, v) :: vs => if ty.fits v then firstMisfit fs vs else some name
  | _, _ => none

/-- The schema checks of `encode` (R121); operands of another form than the schema's are a wrong field count (log 13). -/
def fieldsError (schema : Schema) (fields : FrameFields) : Option SchemaReason :=
  match schema, fields with
  | .fixed2, .params [p1, p2] => if p1 > 0xFF ∨ p2 > 0xFF then some (.fieldWidth none) else none
  | .fields fs, .values (.record vs) =>
    if vs.map Prod.fst ≠ fs.map Prod.fst then some .fieldCount
    else (firstMisfit fs vs).map fun name => .fieldWidth (some name)
  | .opaqueBytes, .values (.raw bs) => if bs.length > maxPayload then some .length else none
  | _, _ => some .fieldCount

/-- `encode_check` (R121): the checks in its order; answers the kind and the destination. -/
def encodeCheck (cat : List Kind) (id : MsgId) (dest source : Byte) (fields : FrameFields) :
    Except OpError (Kind × ModuleAddress) :=
  match lookup cat id with
  | none => .error (.schemaViolation (.unregisteredKind id))
  | some k =>
    match validate dest with
    | none => .error (.invalidAddress dest)
    | some d =>
      match validate source with
      | none => .error (.invalidAddress source)
      | some s =>
        if d = s then .error (.selfAddressed dest)
        else
          match fieldsError k.schema fields with
          | some r => .error (.schemaViolation r)
          | none => .ok (k, d)

/-- `serialise` (R124), and the two params of a fixed kind (R122). -/
def serialise (schema : Schema) (fields : FrameFields) : List Byte :=
  match schema, fields with
  | .fields fs, .values (.record vs) => serFields fs vs
  | _, .values (.raw bs) => bs
  | _, .params ps => ps.map (BitVec.ofNat 8)
  | _, _ => []

/-- `encode` (R120, R122, R123). -/
def encodeFrame (cat : List Kind) (id : MsgId) (dest source : Byte) (fields : FrameFields) :
    Except OpError (List Byte) :=
  match encodeCheck cat id dest source fields with
  | .error e => .error e
  | .ok (k, d) =>
    let payload := serialise k.schema fields
    match k.shape with
    | .fixed => .ok (bytesLe id.toNat 2 ++ payload ++ [formatDest d .fixed, source])
    | .variableLen =>
      if payload.length > maxPayload then .error (.schemaViolation .length)
      else .ok (bytesLe id.toNat 2 ++ bytesLe payload.length 2 ++ [formatDest d .variableLen, source] ++ payload)

/-! ### Well-formedness of a catalogue (R14, R175) -/

/-- The width a kind's schema gives its payload (R14). -/
def Schema.width : Schema → Nat
  | .fields fs => schemaWidth fs
  | _ => 0

/-- Whether every field type of a schema is one of R99. -/
def Schema.legal : Schema → Bool
  | .fields fs => fs.all fun f => f.2.legal
  | _ => true

/-- What R14, R99, R171 and R175 ask of a kind by itself: it is fixed exactly when its schema is `Fixed2`, its payload
fits `MAX_PAYLOAD`, its field types are legal, it has responses exactly when it is a request, and a request or a set has
a family. -/
def Kind.wf (k : Kind) : Bool :=
  ((k.shape == .fixed) == (k.schema == .fixed2)) && decide (k.schema.width ≤ maxPayload) && k.schema.legal &&
  ((k.responses != []) == (k.role == .request)) && (!(k.role == .request || k.role == .set) || k.family.isSome)

/-- What R14, R175 and R179 ask of a kind's responses: each is a registered response of the kind's family that comes from
a device (no `responses` set holds a host-to-device kind, R179), and none is a response of a kind of another family. -/
def Kind.responsesWf (cat : List Kind) (k : Kind) : Bool :=
  k.responses.all (fun r => cat.any fun k' => k'.id == r && k'.role == .response && k'.dir == .deviceToHost &&
    k'.family == k.family) &&
  cat.all (fun k' => k'.family == k.family || k.responses.all fun r => !k'.responses.contains r)

/-- Whether the catalogue's kind of a name is the registered kind of an identifier, with a property. -/
def fixesKind (cat : List Kind) (id : MsgId) (name : KindName) (p : Kind → Bool) : Bool :=
  (named cat name).any fun k => k.id == id && p k

/-- R300: the five identifiers with the values given there: 0x0223 is `MOD_IDENTIFY` and fixed, 0x0220 is
`MOD_SET_CHANENABLESTATE`, 0x0221 is `MOD_REQ_CHANENABLESTATE` and is answered by 0x0212, 0x0212 is
`MOD_GET_CHANENABLESTATE` and a response, 0x0464 is `MOT_MOVE_COMPLETED` and a report from a device (log 23). -/
def keepsFixedKinds (cat : List Kind) : Bool :=
  fixesKind cat 0x0223 .modIdentify (fun k => k.shape == .fixed) &&
  fixesKind cat 0x0220 .modSetChanenablestate (fun _ => true) &&
  fixesKind cat 0x0221 .modReqChanenablestate (fun k => k.responses.contains 0x0212) &&
  fixesKind cat 0x0212 .modGetChanenablestate (fun k => k.role == .response) &&
  fixesKind cat 0x0464 .motMoveCompleted (fun k => k.role == .report && k.dir == .deviceToHost)

/-- R14 and R175: a catalogue is well formed when its identifiers are pairwise distinct, every kind is well formed by
itself and in its responses, and it keeps the five kinds of R300. -/
def catalogueWf (cat : List Kind) : Bool :=
  decide (cat.map Kind.id).Nodup && cat.all (fun k => k.wf && k.responsesWf cat) && keepsFixedKinds cat

/-! ### The opcode table's words -/

/-- The bytes of the table word `w` of `nbits` bits, first byte lowest, every bit above `nbits` 0, up to the length that
its identifier and its length field give. -/
def tableBytes (nbits w : Nat) : List Byte :=
  let v := w % 2 ^ nbits
  let n :=
    match lookup catalogue (BitVec.ofNat 16 v) with
    | some k =>
      match k.shape with
      | .fixed => hdrBytes
      | .variableLen => hdrBytes + v / 2 ^ 16 % 2 ^ 16
    | none => hdrBytes
  bytesLe v (max n ((nbits + 7) / 8))

/-- The instruction the decoder reads from the table word `w`. -/
def decodeTableWord (nbits w : Nat) : Option Instr :=
  match fetch (tableBytes nbits w) with
  | .frame i _ => some i
  | _ => none

end Sys2Proof
end

