-- ==== Sys2Proof/Machine/Operands.lean ====
section
/-! DEFINITION. Operand forms: the codes of R346, the channel that an identifier names, the operation table of R201 and
the checks an operation's operands pass before any I/O (R203). -/

namespace Sys2Proof

open Machine

/-- `HOST_ADDR`, the block's own source address (R10, R96). -/
def hostAddr : Byte := 0x01

/-- `NUM_BAYS` (R10). -/
def numBays : Nat := 10

/-! ### Codes (R10, D34) -/

/-- `CHAN_IDENT`, undefined for a channel that the configuration does not list (R10). -/
def Cfg.chanIdent (cfg : Cfg) (ch : Channel) : Option Nat :=
  (cfg.chanIdents.find? fun e => e.1 == ch).map Prod.snd

/-- `ENABLE_CODE` (R10). -/
def Cfg.enableCode (cfg : Cfg) : Bool → Byte
  | true => cfg.enableOn
  | false => cfg.enableOff

/-- `DIR_CODE` (R10). -/
def Cfg.dirCode (cfg : Cfg) : Direction → Byte
  | .forward => cfg.dirForward
  | .reverse => cfg.dirReverse

/-- `STOP_CODE` (R10). -/
def Cfg.stopCode (cfg : Cfg) : StopMode → Byte
  | .immediate => cfg.stopImmediate
  | .profiled => cfg.stopProfiled

/-- The configuration with every default of the specification: the default catalogue (R301, log 1) and the default codes
(R346, log 2). -/
def Params.withDefaults (p : Params) : Cfg :=
  { toParams := p, catalogue := catalogue, chanIdents := [(1, 0x01), (2, 0x02), (3, 0x04), (4, 0x08)],
    enableOn := 0x01, enableOff := 0x02, dirForward := 0x01, dirReverse := 0x02, stopImmediate := 0x01,
    stopProfiled := 0x02 }

/-- The configuration of the block that `step` runs: the defaults, with any values of the parameters that have none
(log 1, log 2, log 3). -/
def Config.cfg : Cfg := Config.params.withDefaults

/-- Whether `ch` is in `1 .. NUM_CHANNELS` (R57). -/
def channelInRange (cfg : Cfg) (ch : Channel) : Bool := decide (1 ≤ ch ∧ ch ≤ cfg.numChannels)

/-- `chan_of_ident` (R271): the channel in range whose `CHAN_IDENT` is `v`, the first one listed (log 25). -/
def chanOfIdent (cfg : Cfg) (v : Nat) : Option Channel :=
  (cfg.chanIdents.find? fun e => cfg.chanIdent e.1 == some v && channelInRange cfg e.1).map Prod.fst

/-- The value of a numeric field of a payload, by name (R271: `f.fields[n]`). A payload that is opaque, or whose field of
that name is missing or holds bytes, has no such value, and of two fields of one name the first counts: the
specification leaves these cases open and this is the model's choice (log 26). -/
def FieldValues.number (name : FieldName) (v : FieldValues) : Option Nat :=
  match v with
  | .record fs =>
    match fs.find? (fun e => e.1 == name) with
    | some (_, .uint n) => some n
    | _ => none
  | .raw _ => none

/-- `CHANNEL_OF` (R271): the frame's own channel field; a kind without one, the matched entry's channel. A channel field
that cannot be read from the frame (`Param1` on a variable frame, or a field without a numeric value) names no channel:
the specification has no case for it and this is the model's choice (log 26). -/
def channelOf (cfg : Cfg) (k : Kind) (f : Frame) (p : Option Pending) : Option Channel :=
  match k.chanField with
  | .param1 =>
    match f.body with
    | .fixed p1 _ => chanOfIdent cfg p1.toNat
    | .variableLen _ _ => none
  | .field name => (f.fields.bind (FieldValues.number name)).bind (chanOfIdent cfg)
  | .none => p.bind Pending.channel

/-! ### The operation table (R201) -/

/-- The params or fields of an operation's frame (R201). -/
inductive CommandArgs where
  /-- `(0x00, 0x00)` -/
  | zero
  /-- `(CHAN_IDENT(ch), p2)` -/
  | chan (p2 : Byte)
  /-- `(bay, 0x00)` -/
  | bay (b : Byte)
  /-- `ChanIdent` and `vals` -/
  | values (vals : FieldValues)
  deriving DecidableEq, Repr

/-- The class of an operation (R201); a request carries its optional timeout. -/
inductive CommandClass where
  | fire
  | request (timeout : Option Ticks)
  deriving DecidableEq, Repr

/-- The name of the kind that an operation sends (R201). -/
def Command.kindName : Command → KindName
  | .identify .. => .modIdentify
  | .setEnable .. => .modSetChanenablestate
  | .getEnable .. => .modReqChanenablestate
  | .setVelparams .. => .motSetVelparams
  | .getVelparams .. => .motReqVelparams
  | .setJogparams .. => .motSetJogparams
  | .getJogparams .. => .motReqJogparams
  | .setHomeparams .. => .motSetHomeparams
  | .getHomeparams .. => .motReqHomeparams
  | .setLimswitchparams .. => .motSetLimswitchparams
  | .getLimswitchparams .. => .motReqLimswitchparams
  | .setMoverelparams .. => .motSetMoverelparams
  | .getMoverelparams .. => .motReqMoverelparams
  | .setMoveabsparams .. => .motSetMoveabsparams
  | .getMoveabsparams .. => .motReqMoveabsparams
  | .getAdc .. => .motReqAdcinputs
  | .moveHome .. => .motMoveHome
  | .moveRelative .. => .motMoveRelative
  | .moveAbsolute .. => .motMoveAbsolute
  | .moveJog .. => .motMoveJog
  | .moveVelocity .. => .motMoveVelocity
  | .moveStop .. => .motMoveStop
  | .startUpdates .. => .hwStartUpdatemsgs
  | .stopUpdates .. => .hwStopUpdatemsgs
  | .reqHwInfo .. => .hwReqInfo
  | .reqRackBayused .. => .rackReqBayused
  | .reqHubBayused .. => .hubReqBayused

/-- The kind of the default catalogue with a name (R301). -/
def KindName.standard (name : KindName) : Kind := (named catalogue name).getD default

/-- The kind of the configuration's catalogue that an operation sends (R201), by its name (log 25); where its catalogue
has none of that name, the default one, which stands for an unregistered kind. -/
def Cfg.kindNamed (cfg : Cfg) (name : KindName) : Kind := (named cfg.catalogue name).getD name.standard

/-- A row of the operation table (R201). -/
structure CommandRow where
  kind : Kind
  dest : Byte
  ch : Option Channel
  args : CommandArgs
  cls : CommandClass
  deriving DecidableEq, Repr

/-- The operation table (R201, R222 to R246, R218, R219). -/
def Command.row (cfg : Cfg) (c : Command) : CommandRow :=
  let kind := cfg.kindNamed c.kindName
  match c with
  | .identify ch dest => ⟨kind, dest, some ch, .zero, .fire⟩
  | .setEnable ch dest on => ⟨kind, dest, some ch, .chan (cfg.enableCode on), .fire⟩
  | .getEnable ch dest t => ⟨kind, dest, some ch, .chan 0x00, .request t⟩
  | .setVelparams ch dest vals => ⟨kind, dest, some ch, .values vals, .fire⟩
  | .getVelparams ch dest t => ⟨kind, dest, some ch, .chan 0x00, .request t⟩
  | .setJogparams ch dest vals => ⟨kind, dest, some ch, .values vals, .fire⟩
  | .getJogparams ch dest t => ⟨kind, dest, some ch, .chan 0x00, .request t⟩
  | .setHomeparams ch dest vals => ⟨kind, dest, some ch, .values vals, .fire⟩
  | .getHomeparams ch dest t => ⟨kind, dest, some ch, .chan 0x00, .request t⟩
  | .setLimswitchparams ch dest vals => ⟨kind, dest, some ch, .values vals, .fire⟩
  | .getLimswitchparams ch dest t => ⟨kind, dest, some ch, .chan 0x00, .request t⟩
  | .setMoverelparams ch dest vals => ⟨kind, dest, some ch, .values vals, .fire⟩
  | .getMoverelparams ch dest t => ⟨kind, dest, some ch, .chan 0x00, .request t⟩
  | .setMoveabsparams ch dest vals => ⟨kind, dest, some ch, .values vals, .fire⟩
  | .getMoveabsparams ch dest t => ⟨kind, dest, some ch, .chan 0x00, .request t⟩
  | .getAdc ch dest t => ⟨kind, dest, some ch, .chan 0x00, .request t⟩
  | .moveHome ch dest => ⟨kind, dest, some ch, .chan 0x00, .fire⟩
  | .moveRelative ch dest => ⟨kind, dest, some ch, .chan 0x00, .fire⟩
  | .moveAbsolute ch dest => ⟨kind, dest, some ch, .chan 0x00, .fire⟩
  | .moveJog ch dest dir => ⟨kind, dest, some ch, .chan (cfg.dirCode dir), .fire⟩
  | .moveVelocity ch dest dir => ⟨kind, dest, some ch, .chan (cfg.dirCode dir), .fire⟩
  | .moveStop ch dest mode => ⟨kind, dest, some ch, .chan (cfg.stopCode mode), .fire⟩
  | .startUpdates dest => ⟨kind, dest, none, .zero, .fire⟩
  | .stopUpdates dest => ⟨kind, dest, none, .zero, .fire⟩
  | .reqHwInfo dest t => ⟨kind, dest, none, .zero, .request t⟩
  | .reqRackBayused dest b t => ⟨kind, dest, none, .bay b, .request t⟩
  | .reqHubBayused dest t => ⟨kind, dest, none, .zero, .request t⟩

/-- The key that a request to the validated destination `m` needs free, by the class of the operation; none for a
fire-and-forget operation (R202, R207). Every request kind has a family (R175); a kind that a supplied catalogue gives
another role may have none (log 25). -/
def CommandRow.requestKey (r : CommandRow) (m : ModuleAddress) : Option BusyKey :=
  match r.cls with
  | .fire => none
  | .request _ => some ⟨m, r.kind.family⟩

/-- `timeout(op)`: the request's own, or `DEFAULT_TIMEOUT` (R201). -/
def CommandRow.timeout (cfg : Cfg) (r : CommandRow) : Ticks :=
  match r.cls with
  | .request (some t) => t
  | _ => cfg.defaultTimeout

/-- The channel's identifier on the wire, where the operation names a channel that has one. -/
def CommandRow.ident (cfg : Cfg) (r : CommandRow) : Option Nat := r.ch.bind cfg.chanIdent

/-- The channel identifier put among the values of the other fields, at the place of `ChanIdent` in the schema (R202). -/
def placeChanIdent (v : Nat) :
    List (FieldName × FieldType) → List (FieldName × FieldValue) → List (FieldName × FieldValue)
  | f :: fs, e :: vs =>
    if f.1 = .chanIdent then (.chanIdent, .uint v) :: e :: vs else e :: placeChanIdent v fs vs
  | _, vs => (.chanIdent, .uint v) :: vs

/-- The params pair of an operation (R201); an operation with values has none, so its values stand here and fit no pair
(log 13). -/
def CommandRow.pair (cfg : Cfg) (r : CommandRow) : FrameFields :=
  match r.args with
  | .zero => .params [0, 0]
  | .chan p2 => .params [(r.ident cfg).getD 0, p2.toNat]
  | .bay b => .params [b.toNat, 0]
  | .values vals => .values vals

/-- `vals` of an operation (R201); an operation that has a params pair has no values (log 25). -/
def CommandRow.vals (r : CommandRow) : FieldValues :=
  match r.args with
  | .values vals => vals
  | _ => .record []

/-- `fields(op)` (R202): the params pair for a fixed kind; `ChanIdent` and `vals`, in schema order, for a variable kind
whose channel field is `Field(ChanIdent)`; `vals` otherwise. R202 gives `[(ChanIdent, ..)] ++ vals` no meaning where the
schema of such a kind is opaque and `vals` a byte string: that the byte string is then sent alone, without the identifier,
is the model's choice (log 25). -/
def CommandRow.fields (cfg : Cfg) (r : CommandRow) : FrameFields :=
  match r.kind.shape with
  | .fixed => r.pair cfg
  | .variableLen =>
    match r.kind.chanField, r.kind.schema, r.vals, r.ident cfg with
    | .field .chanIdent, .fields fs, .record vs, some v => .values (.record (placeChanIdent v fs vs))
    | _, _, vals, _ => .values vals

/-- The frame of an operation (R202); a kind that the configuration's catalogue does not hold is unregistered (R121,
log 25). -/
def CommandRow.encoded (cfg : Cfg) (r : CommandRow) : Except OpError (List Byte) :=
  if (named cfg.catalogue r.kind.name).isSome then
    encodeFrame cfg.catalogue r.kind.id r.dest hostAddr (r.fields cfg)
  else .error (.schemaViolation (.unregisteredKind r.kind.id))

/-- The channel check of R203: out of range, or without a `CHAN_IDENT`. -/
def channelError (cfg : Cfg) (ch : Option Channel) : Option OpError :=
  match ch with
  | none => none
  | some c =>
    if channelInRange cfg c = false then some (.schemaViolation (.channel c))
    else if cfg.chanIdent c = none then some (.schemaViolation (.channel c))
    else none

/-- The bay check of R203. -/
def bayError (args : CommandArgs) : Option OpError :=
  match args with
  | .bay b => if numBays ≤ b.toNat then some (.schemaViolation (.bay b)) else none
  | _ => none

/-- The timeout check of R203. -/
def timeoutError (cfg : Cfg) (r : CommandRow) : Option OpError :=
  match r.cls with
  | .fire => none
  | .request _ => if r.timeout cfg < 1 then some (.schemaViolation .timeout) else none

/-- `check_inputs` (R203): the first failing check wins; answers the validated destination. -/
def checkInputs (cfg : Cfg) (r : CommandRow) : Except OpError ModuleAddress :=
  match validate r.dest with
  | none => .error (.invalidAddress r.dest)
  | some a =>
    if a.code = hostAddr then .error (.selfAddressed r.dest)
    else
      match channelError cfg r.ch with
      | some e => .error e
      | none =>
        match bayError r.args with
        | some e => .error e
        | none =>
          match timeoutError cfg r with
          | some e => .error e
          | none => .ok a

/-- The code that an operation's error is delivered under (R400, R412). -/
def OpError.code : OpError → ErrorCode
  | .invalidAddress _ => .invalidAddress
  | .selfAddressed _ => .invalidAddress
  | .schemaViolation _ => .schemaViolation

/-- The code of an `EVENT` entry (R400, R414). -/
def LogEvent.code : LogEvent → ErrorCode
  | .decodeError (.truncatedFrame _ _ _) _ => .truncatedFrame
  | .decodeError (.unknownMessageId _) _ => .unknownMessageId
  | .decodeError (.trailingBytes _ _) _ => .trailingBytes
  | .decodeError (.malformedAddressBit _ _) _ => .malformedAddressBit
  | .decodeError (.invalidAddress _) _ => .invalidAddress
  | .truncatedAtClose _ => .truncatedFrame
  | .transportError _ => .transportError

/-- The number of an error code (R400). -/
def ErrorCode.number : ErrorCode → Nat
  | .invalidAddress => 1
  | .unknownMessageId => 2
  | .malformedAddressBit => 3
  | .truncatedFrame => 4
  | .trailingBytes => 5
  | .timeout => 6
  | .transportError => 7
  | .disconnected => 8
  | .schemaViolation => 9
  | .busy => 10
  | .cancelled => 11

/-- The number of an outcome: that of its error code, and 0, `Ok`, for a success (R400). The specification numbers `Ok`
and the errors and gives a `Reply` (R51) no number: that a `Reply` is numbered 0 is the model's choice (log 24). -/
def OpOutcome.number : OpOutcome → Nat
  | .ok => 0
  | .reply _ => 0
  | .err c => ErrorCode.number c

end Sys2Proof
end

