-- ==== Sys2Proof/Machine/Ops.lean ====
section
/-! DEFINITION. The named operations over the state: finite maps, the output ports, `send`, closing the connection, the
life of a pending transaction, the cache updater and dispatch. The block's exceptions are error outcomes delivered as
values (R400, R412): taking one is `State.pushEvent` for an error in the inbound stream and `State.pushResult` for one
that ends an operation, and, for a transport error, `doClose`. It saves no state and changes no mode, there is no handler
and no return (R423). -/

namespace Sys2Proof.Machine

/-! ### Finite maps (R19, log 11) -/

/-- `m[k]`. -/
def FMap.get? {κ α : Type} [DecidableEq κ] (m : List (κ × α)) (k : κ) : Option α :=
  match m with
  | [] => none
  | (k', v) :: rest => if k' = k then some v else FMap.get? rest k

/-- `m[k] <- v`, the keys kept in rising order of `rank`. -/
def FMap.put {κ α : Type} [DecidableEq κ] (rank : κ → Nat) (m : List (κ × α)) (k : κ) (v : α) : List (κ × α) :=
  match m with
  | [] => [(k, v)]
  | (k', v') :: rest =>
    if k' = k then (k, v) :: rest
    else if rank k < rank k' then (k, v) :: (k', v') :: rest
    else (k', v') :: FMap.put rank rest k v

/-- `m[k] <- ⊥`. -/
def FMap.del {κ α : Type} [DecidableEq κ] (m : List (κ × α)) (k : κ) : List (κ × α) :=
  m.filter fun e => decide (e.1 ≠ k)

/-- The canonical form of a finite map: keys strictly rising. -/
abbrev FMap.Rising {κ α : Type} (rank : κ → Nat) (m : List (κ × α)) : Prop :=
  m.Pairwise fun a b => rank a.1 < rank b.1

/-! ### The channel-state file (R44) -/

/-- `S.chan[(m, ch)]`: a channel the file does not list is at `ChannelState.init`. -/
def chanGet (file : List (ChanKey × ChannelState)) (k : ChanKey) : ChannelState :=
  (FMap.get? file k).getD ChannelState.init

/-- `S.chan[(m, ch)] <- c`: a channel at `ChannelState.init` is not listed. -/
def chanSet (file : List (ChanKey × ChannelState)) (k : ChanKey) (c : ChannelState) : List (ChanKey × ChannelState) :=
  if c = ChannelState.init then FMap.del file k else FMap.put ChanKey.rank file k c

/-- `g` applied to every channel that `sel` selects, for a `g` that keeps `ChannelState.init`. -/
def chanMap (sel : ChanKey → Bool) (g : ChannelState → ChannelState) (file : List (ChanKey × ChannelState)) :
    List (ChanKey × ChannelState) :=
  file.filterMap fun e =>
    if sel e.1 then (if g e.2 = ChannelState.init then none else some (e.1, g e.2)) else some e

/-- The canonical form of the channel file: keys rising, no channel listed at `ChannelState.init` (log 11). -/
abbrev ChanFile.wf (file : List (ChanKey × ChannelState)) : Prop :=
  FMap.Rising ChanKey.rank file ∧ ∀ e ∈ file, e.2 ≠ ChannelState.init

/-! ### Updates of the state, one per field -/

def State.setConn (s : State) (v : Conn) : State := { s with conn := v }
def State.setRx (s : State) (v : List Byte) : State := { s with rx := v }
def State.setCmdq (s : State) (v : List (Tag × Op)) : State := { s with cmdq := v }
def State.setNextTag (s : State) (v : Tag) : State := { s with nextTag := v }
def State.setPending (s : State) (v : List (Tag × Pending)) : State := { s with pending := v }
def State.setWaitq (s : State) (v : List (BusyKey × List Deferred)) : State := { s with waitq := v }
def State.setSubs (s : State) (v : Vector Subscription 13) : State := { s with subs := v }
def State.setChan (s : State) (v : List (ChanKey × ChannelState)) : State := { s with chan := v }
def State.setNow (s : State) (v : Ticks) : State := { s with now := v }
def State.setEnv (s : State) (v : Env) : State := { s with env := v }

/-- One entry of the `TX` history (R50). -/
def State.pushTx (s : State) (bytes : List Byte) (r : TxAnswer) : State :=
  { s with txlog := s.txlog ++ [(bytes, r)] }

/-- `emit RESULT(t, o)` (R21, R51). -/
def State.pushResult (s : State) (t : Tag) (o : OpOutcome) : State :=
  { s with results := s.results ++ [(t, o)] }

/-- `emit NOTIFY(f)` (R21). -/
def State.pushNotify (s : State) (f : Frame) : State := { s with notify := s.notify ++ [f] }

/-- `emit EVENT(e)` (R21, R414). -/
def State.pushEvent (s : State) (e : LogEvent) : State := { s with events := s.events ++ [e] }

/-- `S.subs[m]` (R43). -/
def State.subOf (s : State) (m : ModuleAddress) : Subscription := s.subs[m.index]

/-- `S.subs[m] <- v` (R43). -/
def State.setSub (s : State) (m : ModuleAddress) (v : Subscription) : State :=
  s.setSubs (s.subs.set m.index v)

/-- `S.chan[(m, ch)]` (R44). -/
def State.chanOf (s : State) (m : ModuleAddress) (ch : Channel) : ChannelState := chanGet s.chan ⟨m, ch⟩

/-- A change of one channel's state. -/
def State.updateChan (s : State) (m : ModuleAddress) (ch : Channel) (g : ChannelState → ChannelState) : State :=
  s.setChan (chanSet s.chan ⟨m, ch⟩ (g (s.chanOf m ch)))

/-! ### The environment (log 4, log 6) -/

/-- The next event: the first one already determined, else a free one. -/
def Env.drawEvent (e : Env) : Event × Env :=
  match e.agenda with
  | ev :: rest => (ev, { e with agenda := rest })
  | [] => (Config.environment e.draws, { e with draws := e.draws + 1 })

/-- The transport's next answer: the first one already determined, else a free one (R205, D54). -/
def Env.drawAnswer (e : Env) : TxAnswer × Env :=
  match e.answers with
  | r :: rest => (r, { e with answers := rest })
  | [] => (Config.transport e.draws, { e with draws := e.draws + 1 })

/-- The answer the transport gives to the next write. -/
def State.nextAnswer (s : State) : TxAnswer := s.env.drawAnswer.1

/-- The state with that answer used up. -/
def State.answered (s : State) : State := s.setEnv s.env.drawAnswer.2

/-! ### Closing the connection (R217) -/

/-- A tag put into a rising list of tags, once (the union of R217). -/
def insertTag (t : Tag) : List Tag → List Tag
  | [] => [t]
  | t' :: rest => if t < t' then t :: t' :: rest else if t = t' then t' :: rest else t' :: insertTag t rest

/-- The tags of a list in increasing order, each once. -/
def sortTags : List Tag → List Tag
  | [] => []
  | t :: rest => insertTag t (sortTags rest)

/-- The tags of the deferred requests. -/
def waitTags (w : List (BusyKey × List Deferred)) : List Tag := w.flatMap fun e => e.2.map Deferred.tag

/-- `dom(S.pending) ∪ tags in S.waitq`, in increasing tag order (R217). -/
def State.inFlight (s : State) : List Tag := sortTags (s.pending.map Prod.fst ++ waitTags s.waitq)

/-- The report and the discarding of the bytes left in `rx` at a close (R138). -/
def flushRx (s : State) : State :=
  match s.rx with
  | [] => s
  | _ :: _ => (s.pushEvent (.truncatedAtClose s.rx.length)).setRx []

/-- `emit RESULT(t, Err(Disconnected))` for each tag, in order (R217). -/
def disconnectAll (tags : List Tag) (s : State) : State :=
  tags.foldl (fun s t => s.pushResult t (.err .disconnected)) s

/-- Every module unsubscribed (R221). -/
def unsubscribeAll (s : State) : State := s.setSubs (Vector.replicate 13 .unsubscribed)

/-- `close_channels` (R285). -/
def closeChannels (s : State) : State := s.setChan (chanMap (fun _ => true) ChannelState.forget s.chan)

/-- `do_close` (R217): what taking a fatal transport error does. -/
def doClose (reason : CloseReason) (s : State) : State :=
  let s1 := flushRx (s.setConn .closed)
  let s2 := disconnectAll s1.inFlight s1
  let s3 := unsubscribeAll ((s2.setPending []).setWaitq [])
  (closeChannels s3).pushEvent (.transportError reason)

/-- `send` (R205): the whole frame in one write, the answer recorded; an `error` closes the connection. -/
def send (bytes : List Byte) (s : State) : TxAnswer × State :=
  let s1 := s.answered.pushTx bytes s.nextAnswer
  match s.nextAnswer with
  | .ok => (.ok, s1)
  | .error => (.error, doClose .writeError s1)

/-! ### The life of a pending transaction (R207 to R213) -/

/-- `busy(key)` (R207). -/
def State.busy (s : State) (key : BusyKey) : Bool := s.pending.any fun e => e.2.key == key

/-- The entry that issuing a request opens (R208). -/
def newPending (cfg : Cfg) (key : BusyKey) (c : Command) (now : Ticks) : Pending :=
  { reqId := (c.row cfg).kind.id, respIds := (c.row cfg).kind.responses, dest := key.dest, family := key.family,
    channel := (c.row cfg).ch, deadline := now + (c.row cfg).timeout cfg, op := c }

/-- `issue` (R208). `key` is `(validate(dest(op)), family_of(kind(op)))`, which its callers have at hand (log 14). -/
def issue (cfg : Cfg) (key : BusyKey) (t : Tag) (c : Command) (bytes : List Byte) (s : State) : State :=
  match send bytes s with
  | (.error, s') => s'.pushResult t (.err .transportError)
  | (.ok, s') => s'.setPending (FMap.put id s'.pending t (newPending cfg key c s'.now))

/-- `S.waitq[key] <- l`, deleted when empty (R42). -/
def waitSet (w : List (BusyKey × List Deferred)) (key : BusyKey) (l : List Deferred) : List (BusyKey × List Deferred) :=
  if l = [] then FMap.del w key else FMap.put BusyKey.rank w key l

/-- The requests deferred on a key, oldest first. -/
def State.waiting (s : State) (key : BusyKey) : List Deferred := (FMap.get? s.waitq key).getD []

/-- `issue_next` (R212). -/
def issueNext (cfg : Cfg) (key : BusyKey) (s : State) : State :=
  match s.conn, s.waiting key with
  | .opened, d :: rest => issue cfg key d.tag d.op d.bytes (s.setWaitq (waitSet s.waitq key rest))
  | _, _ => s

/-- A pending entry ended with an outcome, its key freed (R211, R213). -/
def finish (cfg : Cfg) (t : Tag) (p : Pending) (o : OpOutcome) (s : State) : State :=
  issueNext cfg p.key ((s.setPending (FMap.del s.pending t)).pushResult t o)

/-- `complete` (R211); nothing for a tag that is not pending. -/
def complete (cfg : Cfg) (t : Tag) (o : OpOutcome) (s : State) : State :=
  match FMap.get? s.pending t with
  | some p => finish cfg t p o s
  | none => s

/-- The deferred requests without the one of tag `t`, a key deleted when its list is empty (R213). -/
def waitRemove (t : Tag) (w : List (BusyKey × List Deferred)) : List (BusyKey × List Deferred) :=
  w.filterMap fun e =>
    let l := e.2.filter fun d => decide (d.tag ≠ t)
    if l = [] then none else some (e.1, l)

/-! ### The cache updater and dispatch (R176, R271) -/

/-- The effect of a kind on the channel file (R271): none, on the one channel the frame is about, or on every channel of
the source module. -/
inductive Effect where
  | nothing
  | perChannel (g : Frame → ChannelState → ChannelState)
  | moduleWide (g : ChannelState → ChannelState)

/-- `update_channel` (R271). -/
def updateChannel (cfg : Cfg) (k : Kind) (eff : Effect) (f : Frame) (p : Option Pending) (s : State) : State :=
  match eff with
  | .nothing => s
  | .perChannel g =>
    match channelOf cfg k f p with
    | some ch => s.updateChan f.source ch (g f)
    | none => s
  | .moduleWide g => s.setChan (chanMap (fun key => key.module == f.source) g s.chan)

/-- Whether a pending entry is completed by a frame (R177). -/
def Pending.answeredBy (p : Pending) (f : Frame) : Bool := p.respIds.contains f.id && f.source == p.dest

/-- The pending entry that a frame completes: the one of smallest tag among those that match (R176, R177). -/
def State.matching (s : State) (f : Frame) : Option (Tag × Pending) := s.pending.find? fun e => e.2.answeredBy f

/-- `dispatch` (R176). -/
def dispatch (cfg : Cfg) (k : Kind) (eff : Effect) (f : Frame) (s : State) : State :=
  match s.matching f with
  | some (t, p) => complete cfg t (.reply f) (updateChannel cfg k eff f (some p) s)
  | none => (updateChannel cfg k eff f none s).pushNotify f

/-- A frame that the deframer has cut: what `decode` rejects is reported on `EVENT` with the number of bytes dropped,
what it accepts is dispatched (R133, R136, R137). -/
def receiveFrame (cfg : Cfg) (k : Kind) (eff : Effect) (raw : RawFrame) (s : State) : Host.Outcome State Fault Refusal :=
  match checkRaw k raw with
  | .error e => .next (s.pushEvent (.decodeError e raw.length))
  | .ok f => .next (dispatch cfg k eff f s)

/-! ### The effect of each kind (R272 to R286) -/

/-- The effect of an enable-state report, by its code; another code changes nothing (R272). R300 leaves the shape of the
kind open, and a variable frame has no second param: that it changes nothing then is the model's choice (log 26). -/
def enableReportEffect (cfg : Cfg) : Effect := .perChannel fun f c =>
  match f.body with
  | .fixed _ p2 =>
    if p2 = cfg.enableCode true then c.withEnable true
    else if p2 = cfg.enableCode false then c.withEnable false
    else c
  | .variableLen _ _ => c

/-- The effect of a parameter report: the kind's cache slot written with the frame's fields (R171, R273 to R279). That a
fixed frame, which has no fields, leaves the slot without a value is the model's choice (log 26). -/
def cacheEffect (k : Kind) : Effect := .perChannel fun f c => c.cache k.slot f.fields

/-- The effect of `MOT_MOVE_HOMED` (R280). -/
def homedEffect : Effect := .perChannel fun _ c => c.onHomed

/-- The effect of `MOT_MOVE_COMPLETED` (R281). -/
def completedEffect (k : Kind) : Effect := .perChannel fun f c => (c.cache k.slot f.fields).onCompleted

/-- The effect of `MOT_MOVE_STOPPED` (R282). -/
def stoppedEffect (k : Kind) : Effect := .perChannel fun f c => (c.cache k.slot f.fields).onStopped

/-- The effect of `HW_DISCONNECT` on every channel of the source module (R283). -/
def disconnectEffect : Effect := .moduleWide ChannelState.forget

/-- The effect of `HW_RESPONSE` and `HW_RICHRESPONSE` on every channel of the source module (R284). -/
def errorReportEffect : Effect := .moduleWide ChannelState.onErrorReport

/-- The effect of a kind of any catalogue. A kind from the host to a device has none (R179, R286). A kind from a device
has its own by its name (R272, R280 to R284, log 25); another one writes its cache slot, where it has one (R273 to R279),
and has no effect where it has none (R286). -/
def kindEffect (cfg : Cfg) (k : Kind) : Effect :=
  match k.dir with
  | .hostToDevice => .nothing
  | .deviceToHost =>
    match k.name with
    | .modGetChanenablestate => enableReportEffect cfg
    | .motMoveHomed => homedEffect
    | .motMoveCompleted => completedEffect k
    | .motMoveStopped => stoppedEffect k
    | .hwDisconnect => disconnectEffect
    | .hwResponse => errorReportEffect
    | .hwRichresponse => errorReportEffect
    | _ =>
      match k.slot with
      | some _ => cacheEffect k
      | none => .nothing

end Sys2Proof.Machine
end

