-- ==== Sys2Proof/Machine/HardwareMessages.lean ====
section
/-! DEFINITION. The meanings of the hardware messages (R306 to R312): what the block does with a frame of each kind that the deframer has cut. -/

namespace Sys2Proof.Machine

/-- `HW_DISCONNECT` (R306): every channel of the source module becomes `Unknown` (R283). -/
def execHwDisconnect (param1 param2 dest source : Byte) (s : State) : Host.Outcome State Fault Refusal :=
  receiveFrame Config.cfg kindHwDisconnect disconnectEffect (.fixed param1 param2 dest source) s

/-- `HW_RESPONSE` (R307): every `Homing` channel of the source module becomes `Unknown` (R284). -/
def execHwResponse (param1 param2 dest source : Byte) (s : State) : Host.Outcome State Fault Refusal :=
  receiveFrame Config.cfg kindHwResponse errorReportEffect (.fixed param1 param2 dest source) s

/-- `HW_RICHRESPONSE` (R308): every `Homing` channel of the source module becomes `Unknown` (R284). -/
def execHwRichresponse (dest source : Byte) (payload : List Byte) (s : State) : Host.Outcome State Fault Refusal :=
  receiveFrame Config.cfg kindHwRichresponse errorReportEffect (.variableLen dest source payload) s

/-- `HW_START_UPDATEMSGS` (R309): received from the wire it has no effect on `chan` (R179, R286). -/
def execHwStartUpdatemsgs (param1 param2 dest source : Byte) (s : State) : Host.Outcome State Fault Refusal :=
  receiveFrame Config.cfg kindHwStartUpdatemsgs .nothing (.fixed param1 param2 dest source) s

/-- `HW_STOP_UPDATEMSGS` (R310): received from the wire it has no effect on `chan` (R179, R286). -/
def execHwStopUpdatemsgs (param1 param2 dest source : Byte) (s : State) : Host.Outcome State Fault Refusal :=
  receiveFrame Config.cfg kindHwStopUpdatemsgs .nothing (.fixed param1 param2 dest source) s

/-- `HW_REQ_INFO` (R311): received from the wire it has no effect on `chan` (R179, R286). -/
def execHwReqInfo (param1 param2 dest source : Byte) (s : State) : Host.Outcome State Fault Refusal :=
  receiveFrame Config.cfg kindHwReqInfo .nothing (.fixed param1 param2 dest source) s

/-- `HW_GET_INFO` (R312): it is delivered and not cached (R286). -/
def execHwGetInfo (dest source : Byte) (payload : List Byte) (s : State) : Host.Outcome State Fault Refusal :=
  receiveFrame Config.cfg kindHwGetInfo .nothing (.variableLen dest source payload) s

end Sys2Proof.Machine
end

