-- ==== Sys2Proof/Machine/ModuleMessages.lean ====
section
/-! DEFINITION. The meanings of the module messages (R302 to R305): what the block does with a frame of each kind that the deframer has cut. -/

namespace Sys2Proof.Machine

/-- `MOD_IDENTIFY` (R302): received from the wire it has no effect on `chan` (R179, R286). -/
def execModIdentify (param1 param2 dest source : Byte) (s : State) : Host.Outcome State Fault Refusal :=
  receiveFrame Config.cfg kindModIdentify .nothing (.fixed param1 param2 dest source) s

/-- `MOD_SET_CHANENABLESTATE` (R303): received from the wire it has no effect on `chan` (R179, R286). -/
def execModSetChanenablestate (param1 param2 dest source : Byte) (s : State) : Host.Outcome State Fault Refusal :=
  receiveFrame Config.cfg kindModSetChanenablestate .nothing (.fixed param1 param2 dest source) s

/-- `MOD_REQ_CHANENABLESTATE` (R304): received from the wire it has no effect on `chan` (R179, R286). -/
def execModReqChanenablestate (param1 param2 dest source : Byte) (s : State) : Host.Outcome State Fault Refusal :=
  receiveFrame Config.cfg kindModReqChanenablestate .nothing (.fixed param1 param2 dest source) s

/-- `MOD_GET_CHANENABLESTATE` (R305): its report of the enable state is R272. -/
def execModGetChanenablestate (param1 param2 dest source : Byte) (s : State) : Host.Outcome State Fault Refusal :=
  receiveFrame Config.cfg kindModGetChanenablestate (enableReportEffect Config.cfg) (.fixed param1 param2 dest source) s

end Sys2Proof.Machine
end

