-- ==== Sys2Proof/Machine/MotionMessages.lean ====
section
/-! DEFINITION. The meanings of the motion messages (R331, R332, R336, R340 to R345): what the block does with a frame of each kind that the deframer has cut. -/

namespace Sys2Proof.Machine

/-- `MOT_MOVE_HOME` (R331): received from the wire it has no effect on `chan` (R179, R286). -/
def execMotMoveHome (param1 param2 dest source : Byte) (s : State) : Host.Outcome State Fault Refusal :=
  receiveFrame Config.cfg kindMotMoveHome .nothing (.fixed param1 param2 dest source) s

/-- `MOT_MOVE_HOMED` (R332): a `Homing` channel becomes `Homed` (R280). -/
def execMotMoveHomed (param1 param2 dest source : Byte) (s : State) : Host.Outcome State Fault Refusal :=
  receiveFrame Config.cfg kindMotMoveHomed homedEffect (.fixed param1 param2 dest source) s

/-- `MOT_MOVE_RELATIVE` (R336): received from the wire it has no effect on `chan` (R179, R286). -/
def execMotMoveRelative (param1 param2 dest source : Byte) (s : State) : Host.Outcome State Fault Refusal :=
  receiveFrame Config.cfg kindMotMoveRelative .nothing (.fixed param1 param2 dest source) s

/-- `MOT_MOVE_ABSOLUTE` (R340): received from the wire it has no effect on `chan` (R179, R286). -/
def execMotMoveAbsolute (param1 param2 dest source : Byte) (s : State) : Host.Outcome State Fault Refusal :=
  receiveFrame Config.cfg kindMotMoveAbsolute .nothing (.fixed param1 param2 dest source) s

/-- `MOT_MOVE_VELOCITY` (R341): received from the wire it has no effect on `chan` (R179, R286). -/
def execMotMoveVelocity (param1 param2 dest source : Byte) (s : State) : Host.Outcome State Fault Refusal :=
  receiveFrame Config.cfg kindMotMoveVelocity .nothing (.fixed param1 param2 dest source) s

/-- `MOT_MOVE_COMPLETED` (R342): the status is cached and a channel in motion becomes `Completed` (R281). -/
def execMotMoveCompleted (dest source : Byte) (payload : List Byte) (s : State) : Host.Outcome State Fault Refusal :=
  receiveFrame Config.cfg kindMotMoveCompleted (completedEffect kindMotMoveCompleted) (.variableLen dest source payload) s

/-- `MOT_MOVE_STOP` (R343): received from the wire it has no effect on `chan` (R179, R286). -/
def execMotMoveStop (param1 param2 dest source : Byte) (s : State) : Host.Outcome State Fault Refusal :=
  receiveFrame Config.cfg kindMotMoveStop .nothing (.fixed param1 param2 dest source) s

/-- `MOT_MOVE_STOPPED` (R344): the status is cached and a channel in motion becomes `Stopped` (R282). -/
def execMotMoveStopped (dest source : Byte) (payload : List Byte) (s : State) : Host.Outcome State Fault Refusal :=
  receiveFrame Config.cfg kindMotMoveStopped (stoppedEffect kindMotMoveStopped) (.variableLen dest source payload) s

/-- `MOT_MOVE_JOG` (R345): received from the wire it has no effect on `chan` (R179, R286). -/
def execMotMoveJog (param1 param2 dest source : Byte) (s : State) : Host.Outcome State Fault Refusal :=
  receiveFrame Config.cfg kindMotMoveJog .nothing (.fixed param1 param2 dest source) s

end Sys2Proof.Machine
end

