-- ==== Sys2Proof/Machine/ParameterMessages.lean ====
section
/-! DEFINITION. The meanings of the motor parameter messages (R317 to R330, R333 to R335, R337 to R339): what the block does with a frame of each kind that the deframer has cut. -/

namespace Sys2Proof.Machine

/-- `MOT_SET_VELPARAMS` (R317): received from the wire it has no effect on `chan` (R179, R286). -/
def execMotSetVelparams (dest source : Byte) (payload : List Byte) (s : State) : Host.Outcome State Fault Refusal :=
  receiveFrame Config.cfg kindMotSetVelparams .nothing (.variableLen dest source payload) s

/-- `MOT_REQ_VELPARAMS` (R318): received from the wire it has no effect on `chan` (R179, R286). -/
def execMotReqVelparams (param1 param2 dest source : Byte) (s : State) : Host.Outcome State Fault Refusal :=
  receiveFrame Config.cfg kindMotReqVelparams .nothing (.fixed param1 param2 dest source) s

/-- `MOT_GET_VELPARAMS` (R319): its fields are cached in `vel` (R273). -/
def execMotGetVelparams (dest source : Byte) (payload : List Byte) (s : State) : Host.Outcome State Fault Refusal :=
  receiveFrame Config.cfg kindMotGetVelparams (cacheEffect kindMotGetVelparams) (.variableLen dest source payload) s

/-- `MOT_SET_JOGPARAMS` (R320): received from the wire it has no effect on `chan` (R179, R286). -/
def execMotSetJogparams (dest source : Byte) (payload : List Byte) (s : State) : Host.Outcome State Fault Refusal :=
  receiveFrame Config.cfg kindMotSetJogparams .nothing (.variableLen dest source payload) s

/-- `MOT_REQ_JOGPARAMS` (R321): received from the wire it has no effect on `chan` (R179, R286). -/
def execMotReqJogparams (param1 param2 dest source : Byte) (s : State) : Host.Outcome State Fault Refusal :=
  receiveFrame Config.cfg kindMotReqJogparams .nothing (.fixed param1 param2 dest source) s

/-- `MOT_GET_JOGPARAMS` (R322): its fields are cached in `jog` (R274). -/
def execMotGetJogparams (dest source : Byte) (payload : List Byte) (s : State) : Host.Outcome State Fault Refusal :=
  receiveFrame Config.cfg kindMotGetJogparams (cacheEffect kindMotGetJogparams) (.variableLen dest source payload) s

/-- `MOT_SET_LIMSWITCHPARAMS` (R323): received from the wire it has no effect on `chan` (R179, R286). -/
def execMotSetLimswitchparams (dest source : Byte) (payload : List Byte) (s : State) : Host.Outcome State Fault Refusal :=
  receiveFrame Config.cfg kindMotSetLimswitchparams .nothing (.variableLen dest source payload) s

/-- `MOT_REQ_LIMSWITCHPARAMS` (R324): received from the wire it has no effect on `chan` (R179, R286). -/
def execMotReqLimswitchparams (param1 param2 dest source : Byte) (s : State) : Host.Outcome State Fault Refusal :=
  receiveFrame Config.cfg kindMotReqLimswitchparams .nothing (.fixed param1 param2 dest source) s

/-- `MOT_GET_LIMSWITCHPARAMS` (R325): its fields are cached in `lim` (R276). -/
def execMotGetLimswitchparams (dest source : Byte) (payload : List Byte) (s : State) : Host.Outcome State Fault Refusal :=
  receiveFrame Config.cfg kindMotGetLimswitchparams (cacheEffect kindMotGetLimswitchparams) (.variableLen dest source payload) s

/-- `MOT_REQ_ADCINPUTS` (R326): received from the wire it has no effect on `chan` (R179, R286). -/
def execMotReqAdcinputs (param1 param2 dest source : Byte) (s : State) : Host.Outcome State Fault Refusal :=
  receiveFrame Config.cfg kindMotReqAdcinputs .nothing (.fixed param1 param2 dest source) s

/-- `MOT_GET_ADCINPUTS` (R327): its fields are cached in `adc` (R279). -/
def execMotGetAdcinputs (dest source : Byte) (payload : List Byte) (s : State) : Host.Outcome State Fault Refusal :=
  receiveFrame Config.cfg kindMotGetAdcinputs (cacheEffect kindMotGetAdcinputs) (.variableLen dest source payload) s

/-- `MOT_SET_HOMEPARAMS` (R328): received from the wire it has no effect on `chan` (R179, R286). -/
def execMotSetHomeparams (dest source : Byte) (payload : List Byte) (s : State) : Host.Outcome State Fault Refusal :=
  receiveFrame Config.cfg kindMotSetHomeparams .nothing (.variableLen dest source payload) s

/-- `MOT_REQ_HOMEPARAMS` (R329): received from the wire it has no effect on `chan` (R179, R286). -/
def execMotReqHomeparams (param1 param2 dest source : Byte) (s : State) : Host.Outcome State Fault Refusal :=
  receiveFrame Config.cfg kindMotReqHomeparams .nothing (.fixed param1 param2 dest source) s

/-- `MOT_GET_HOMEPARAMS` (R330): its fields are cached in `home` (R275). -/
def execMotGetHomeparams (dest source : Byte) (payload : List Byte) (s : State) : Host.Outcome State Fault Refusal :=
  receiveFrame Config.cfg kindMotGetHomeparams (cacheEffect kindMotGetHomeparams) (.variableLen dest source payload) s

/-- `MOT_SET_MOVERELPARAMS` (R333): received from the wire it has no effect on `chan` (R179, R286). -/
def execMotSetMoverelparams (dest source : Byte) (payload : List Byte) (s : State) : Host.Outcome State Fault Refusal :=
  receiveFrame Config.cfg kindMotSetMoverelparams .nothing (.variableLen dest source payload) s

/-- `MOT_REQ_MOVERELPARAMS` (R334): received from the wire it has no effect on `chan` (R179, R286). -/
def execMotReqMoverelparams (param1 param2 dest source : Byte) (s : State) : Host.Outcome State Fault Refusal :=
  receiveFrame Config.cfg kindMotReqMoverelparams .nothing (.fixed param1 param2 dest source) s

/-- `MOT_GET_MOVERELPARAMS` (R335): its fields are cached in `rel` (R277). -/
def execMotGetMoverelparams (dest source : Byte) (payload : List Byte) (s : State) : Host.Outcome State Fault Refusal :=
  receiveFrame Config.cfg kindMotGetMoverelparams (cacheEffect kindMotGetMoverelparams) (.variableLen dest source payload) s

/-- `MOT_SET_MOVEABSPARAMS` (R337): received from the wire it has no effect on `chan` (R179, R286). -/
def execMotSetMoveabsparams (dest source : Byte) (payload : List Byte) (s : State) : Host.Outcome State Fault Refusal :=
  receiveFrame Config.cfg kindMotSetMoveabsparams .nothing (.variableLen dest source payload) s

/-- `MOT_REQ_MOVEABSPARAMS` (R338): received from the wire it has no effect on `chan` (R179, R286). -/
def execMotReqMoveabsparams (param1 param2 dest source : Byte) (s : State) : Host.Outcome State Fault Refusal :=
  receiveFrame Config.cfg kindMotReqMoveabsparams .nothing (.fixed param1 param2 dest source) s

/-- `MOT_GET_MOVEABSPARAMS` (R339): its fields are cached in `abs` (R278). -/
def execMotGetMoveabsparams (dest source : Byte) (payload : List Byte) (s : State) : Host.Outcome State Fault Refusal :=
  receiveFrame Config.cfg kindMotGetMoveabsparams (cacheEffect kindMotGetMoveabsparams) (.variableLen dest source payload) s

end Sys2Proof.Machine
end

