-- ==== Sys2Proof/Machine/RackHubMessages.lean ====
section
/-! DEFINITION. The meanings of the rack and hub messages (R313 to R316): what the block does with a frame of each kind that the deframer has cut. -/

namespace Sys2Proof.Machine

/-- `RACK_REQ_BAYUSED` (R313): received from the wire it has no effect on `chan` (R179, R286). -/
def execRackReqBayused (param1 param2 dest source : Byte) (s : State) : Host.Outcome State Fault Refusal :=
  receiveFrame Config.cfg kindRackReqBayused .nothing (.fixed param1 param2 dest source) s

/-- `RACK_GET_BAYUSED` (R314): it is delivered and not cached (R286). -/
def execRackGetBayused (param1 param2 dest source : Byte) (s : State) : Host.Outcome State Fault Refusal :=
  receiveFrame Config.cfg kindRackGetBayused .nothing (.fixed param1 param2 dest source) s

/-- `HUB_REQ_BAYUSED` (R315): received from the wire it has no effect on `chan` (R179, R286). -/
def execHubReqBayused (param1 param2 dest source : Byte) (s : State) : Host.Outcome State Fault Refusal :=
  receiveFrame Config.cfg kindHubReqBayused .nothing (.fixed param1 param2 dest source) s

/-- `HUB_GET_BAYUSED` (R316): it is delivered and not cached (R286). -/
def execHubGetBayused (param1 param2 dest source : Byte) (s : State) : Host.Outcome State Fault Refusal :=
  receiveFrame Config.cfg kindHubGetBayused .nothing (.fixed param1 param2 dest source) s

end Sys2Proof.Machine
end

