-- ==== Sys2Proof/Machine/Dispatch.lean ====
section
/-! DEFINITION. What an instruction does: one arm per constructor of `Instr`. -/

namespace Sys2Proof.Machine

def exec (i : Instr) (s : State) : Host.Outcome State Fault Refusal :=
  match i with
  | .modIdentify param1 param2 dest source => Sys2Proof.Machine.execModIdentify param1 param2 dest source s
  | .modSetChanenablestate param1 param2 dest source => Sys2Proof.Machine.execModSetChanenablestate param1 param2 dest source s
  | .modReqChanenablestate param1 param2 dest source => Sys2Proof.Machine.execModReqChanenablestate param1 param2 dest source s
  | .modGetChanenablestate param1 param2 dest source => Sys2Proof.Machine.execModGetChanenablestate param1 param2 dest source s
  | .hwDisconnect param1 param2 dest source => Sys2Proof.Machine.execHwDisconnect param1 param2 dest source s
  | .hwResponse param1 param2 dest source => Sys2Proof.Machine.execHwResponse param1 param2 dest source s
  | .hwRichresponse dest source payload => Sys2Proof.Machine.execHwRichresponse dest source payload s
  | .hwStartUpdatemsgs param1 param2 dest source => Sys2Proof.Machine.execHwStartUpdatemsgs param1 param2 dest source s
  | .hwStopUpdatemsgs param1 param2 dest source => Sys2Proof.Machine.execHwStopUpdatemsgs param1 param2 dest source s
  | .hwReqInfo param1 param2 dest source => Sys2Proof.Machine.execHwReqInfo param1 param2 dest source s
  | .hwGetInfo dest source payload => Sys2Proof.Machine.execHwGetInfo dest source payload s
  | .rackReqBayused param1 param2 dest source => Sys2Proof.Machine.execRackReqBayused param1 param2 dest source s
  | .rackGetBayused param1 param2 dest source => Sys2Proof.Machine.execRackGetBayused param1 param2 dest source s
  | .hubReqBayused param1 param2 dest source => Sys2Proof.Machine.execHubReqBayused param1 param2 dest source s
  | .hubGetBayused param1 param2 dest source => Sys2Proof.Machine.execHubGetBayused param1 param2 dest source s
  | .motSetVelparams dest source payload => Sys2Proof.Machine.execMotSetVelparams dest source payload s
  | .motReqVelparams param1 param2 dest source => Sys2Proof.Machine.execMotReqVelparams param1 param2 dest source s
  | .motGetVelparams dest source payload => Sys2Proof.Machine.execMotGetVelparams dest source payload s
  | .motSetJogparams dest source payload => Sys2Proof.Machine.execMotSetJogparams dest source payload s
  | .motReqJogparams param1 param2 dest source => Sys2Proof.Machine.execMotReqJogparams param1 param2 dest source s
  | .motGetJogparams dest source payload => Sys2Proof.Machine.execMotGetJogparams dest source payload s
  | .motSetLimswitchparams dest source payload => Sys2Proof.Machine.execMotSetLimswitchparams dest source payload s
  | .motReqLimswitchparams param1 param2 dest source => Sys2Proof.Machine.execMotReqLimswitchparams param1 param2 dest source s
  | .motGetLimswitchparams dest source payload => Sys2Proof.Machine.execMotGetLimswitchparams dest source payload s
  | .motReqAdcinputs param1 param2 dest source => Sys2Proof.Machine.execMotReqAdcinputs param1 param2 dest source s
  | .motGetAdcinputs dest source payload => Sys2Proof.Machine.execMotGetAdcinputs dest source payload s
  | .motSetHomeparams dest source payload => Sys2Proof.Machine.execMotSetHomeparams dest source payload s
  | .motReqHomeparams param1 param2 dest source => Sys2Proof.Machine.execMotReqHomeparams param1 param2 dest source s
  | .motGetHomeparams dest source payload => Sys2Proof.Machine.execMotGetHomeparams dest source payload s
  | .motMoveHome param1 param2 dest source => Sys2Proof.Machine.execMotMoveHome param1 param2 dest source s
  | .motMoveHomed param1 param2 dest source => Sys2Proof.Machine.execMotMoveHomed param1 param2 dest source s
  | .motSetMoverelparams dest source payload => Sys2Proof.Machine.execMotSetMoverelparams dest source payload s
  | .motReqMoverelparams param1 param2 dest source => Sys2Proof.Machine.execMotReqMoverelparams param1 param2 dest source s
  | .motGetMoverelparams dest source payload => Sys2Proof.Machine.execMotGetMoverelparams dest source payload s
  | .motMoveRelative param1 param2 dest source => Sys2Proof.Machine.execMotMoveRelative param1 param2 dest source s
  | .motSetMoveabsparams dest source payload => Sys2Proof.Machine.execMotSetMoveabsparams dest source payload s
  | .motReqMoveabsparams param1 param2 dest source => Sys2Proof.Machine.execMotReqMoveabsparams param1 param2 dest source s
  | .motGetMoveabsparams dest source payload => Sys2Proof.Machine.execMotGetMoveabsparams dest source payload s
  | .motMoveAbsolute param1 param2 dest source => Sys2Proof.Machine.execMotMoveAbsolute param1 param2 dest source s
  | .motMoveVelocity param1 param2 dest source => Sys2Proof.Machine.execMotMoveVelocity param1 param2 dest source s
  | .motMoveCompleted dest source payload => Sys2Proof.Machine.execMotMoveCompleted dest source payload s
  | .motMoveStop param1 param2 dest source => Sys2Proof.Machine.execMotMoveStop param1 param2 dest source s
  | .motMoveStopped dest source payload => Sys2Proof.Machine.execMotMoveStopped dest source payload s
  | .motMoveJog param1 param2 dest source => Sys2Proof.Machine.execMotMoveJog param1 param2 dest source s

end Sys2Proof.Machine
end

