-- ==== Sys2Proof/Machine/Engine.lean ====
section
/-! DEFINITION. The events of R32: accepting and processing host operations (R37, R202 to R213), receiving and
deframing bytes (R36, R133), time (R45), expiry (R210), closing and reconnecting (R217, R452), and the snapshot read
(R261). -/

namespace Sys2Proof.Machine

/-! ### Host operations -/

/-- `Accept` (R37). The tag reported to the caller is `nextTag` as it stands before. -/
def accept (op : Op) (s : State) : State :=
  (s.setCmdq (s.cmdq ++ [(s.nextTag, op)])).setNextTag (s.nextTag + 1)

/-- `apply_outbound` (R265 to R270, R218, R219), on the validated destination; every command not named here has no
outbound effect (R270). -/
def applyOutbound (c : Command) (m : ModuleAddress) (s : State) : State :=
  match c with
  | .setEnable ch _ on => s.updateChan m ch (ChannelState.withEnable on)
  | .moveHome ch _ => s.updateChan m ch (ChannelState.beginMotion .homing)
  | .moveRelative ch _ => s.updateChan m ch (ChannelState.beginMotion .moving)
  | .moveAbsolute ch _ => s.updateChan m ch (ChannelState.beginMotion .moving)
  | .moveJog ch _ _ => s.updateChan m ch (ChannelState.beginMotion .jogging)
  | .moveVelocity ch _ _ => s.updateChan m ch (ChannelState.beginMotion .moving)
  | .startUpdates _ => s.setSub m .subscribed
  | .stopUpdates _ => s.setSub m .unsubscribed
  | _ => s

/-- `do_fire` (R206). -/
def doFire (t : Tag) (c : Command) (m : ModuleAddress) (bytes : List Byte) (s : State) : State :=
  match send bytes s with
  | (.error, s') => s'.pushResult t (.err .transportError)
  | (.ok, s') => (applyOutbound c m s').pushResult t .ok

/-- `do_request` (R207). -/
def doRequest (cfg : Cfg) (key : BusyKey) (t : Tag) (c : Command) (bytes : List Byte) (s : State) : State :=
  match s.busy key, cfg.busyPolicy with
  | true, .failFast => s.pushResult t (.err .busy)
  | true, .wait => s.setWaitq (waitSet s.waitq key (s.waiting key ++ [⟨t, c, bytes⟩]))
  | false, _ => issue cfg key t c bytes s

/-- `do_cancel` (R213). -/
def doCancel (cfg : Cfg) (t target : Tag) (s : State) : State :=
  match FMap.get? s.pending target with
  | some p => (finish cfg target p (.err .cancelled) s).pushResult t .ok
  | none =>
    if target ∈ waitTags s.waitq then
      ((s.setWaitq (waitRemove target s.waitq)).pushResult target (.err .cancelled)).pushResult t .ok
    else s.pushResult t .ok

/-- `Process` of a command (R202): the checks, the closed connection, the encoding, and then its class. -/
def runCommand (cfg : Cfg) (t : Tag) (c : Command) (s : State) : State :=
  match checkInputs cfg (c.row cfg) with
  | .error e => s.pushResult t (.err e.code)
  | .ok m =>
    if s.conn = .closed then s.pushResult t (.err .transportError)
    else
      match (c.row cfg).encoded cfg with
      | .error e => s.pushResult t (.err e.code)
      | .ok bytes =>
        match (c.row cfg).requestKey m with
        | none => doFire t c m bytes s
        | some key => doRequest cfg key t c bytes s

/-- `Process` (R202), enabled when `cmdq` is not empty. -/
def process (cfg : Cfg) (s : State) : State :=
  match s.cmdq with
  | [] => s
  | (t, .cancel target) :: rest => doCancel cfg t target (s.setCmdq rest)
  | (t, .command c) :: rest => runCommand cfg t c (s.setCmdq rest)

/-! ### The other events -/

/-- `Receive` (R36): a closed connection drops the bytes. -/
def receiveBytes (bs : List Byte) (s : State) : State :=
  match s.conn with
  | .opened => s.setRx (s.rx ++ bs)
  | .closed => s

/-- `Tick` (R45): time does not go back. -/
def tick (t : Ticks) (s : State) : State := if s.now ≤ t then s.setNow t else s

/-- `Expire` (R210), enabled when the deadline has been reached. -/
def expire (cfg : Cfg) (t : Tag) (s : State) : State :=
  match FMap.get? s.pending t with
  | some p => if p.deadline ≤ s.now then complete cfg t (.err .timeout) s else s
  | none => s

/-- `Close` (R217), enabled when the connection is open. -/
def close (s : State) : State :=
  match s.conn with
  | .opened => doClose .streamClosed s
  | .closed => s

/-- `Reconnect` (R452), enabled when the connection is closed and `cmdq` is empty; the environment goes on (log 7). -/
def reconnect (s : State) : State :=
  if s.conn = .closed ∧ s.cmdq = [] then State.reset.setEnv s.env else s

/-- `Deframe` (R133) of the block that `step` runs, enabled when the connection is open and `rx` is ready: one byte of an
unknown identifier dropped (R135), or one frame cut and its instruction run by `run`. -/
def deframe (run : Instr → State → Host.Outcome State Fault Refusal) (s : State) : Host.Outcome State Fault Refusal :=
  match s.conn, fetch s.rx with
  | .opened, .unknown id => .next ((s.setRx s.rx.tail).pushEvent (.decodeError (.unknownMessageId id) 1))
  | .opened, .frame i rest => run i (s.setRx rest)
  | _, _ => .next s

/-- `Deframe` (R133) of a block of any configuration: the frame is received with the effect of its kind. -/
def deframeIn (cfg : Cfg) (s : State) : Host.Outcome State Fault Refusal :=
  match s.conn, cut cfg.catalogue s.rx with
  | .opened, .unknown id => .next ((s.setRx s.rx.tail).pushEvent (.decodeError (.unknownMessageId id) 1))
  | .opened, .frame k raw rest => receiveFrame cfg k (kindEffect cfg k) raw (s.setRx rest)
  | _, _ => .next s

/-- The step that an event makes (R32), with the configuration's `Deframe`; an event that is not enabled changes nothing
(log 5). -/
def perform (cfg : Cfg) (deframe : State → Host.Outcome State Fault Refusal) (e : Event) (s : State) :
    Host.Outcome State Fault Refusal :=
  match e with
  | .accept op => .next (accept op s)
  | .process => .next (process cfg s)
  | .receive bs => .next (receiveBytes bs s)
  | .deframe => deframe s
  | .tick t => .next (tick t s)
  | .expire t => .next (expire cfg t s)
  | .close => .next (close s)
  | .reconnect => .next (reconnect s)

/-! ### Reads -/

/-- `get_snapshot` on the `SNAP` port (R261): no step, no side effect. -/
def getSnapshot (cfg : Cfg) (m : Byte) (ch : Channel) (s : State) : Except OpError ChannelState :=
  match validate m with
  | none => .error (.invalidAddress m)
  | some a => if channelInRange cfg ch then .ok (s.chanOf a ch) else .error (.schemaViolation (.channel ch))

/-! ### Blocks of any configuration (R10, R14, R451) -/

/-- A block instance: its configuration, fixed for its life (R10, R34), and its state. -/
structure Block where
  cfg : Cfg
  state : State
  deriving DecidableEq, Repr

/-- The construction of a block with a configuration, in the reset state (R450); refused for an ill-formed catalogue
(R14, R451). -/
def construct (cfg : Cfg) : Option Block := if catalogueWf cfg.catalogue then some ⟨cfg, State.reset⟩ else none

/-- One step (R32) of a block of the configuration `cfg`: the environment's next event, performed. -/
def stepIn (cfg : Cfg) (s : State) : Host.Outcome State Fault Refusal :=
  perform cfg (deframeIn cfg) s.env.drawEvent.1 (s.setEnv s.env.drawEvent.2)

/-- One step of a block, under its own configuration. -/
def Block.step (b : Block) : Host.Outcome State Fault Refusal := stepIn b.cfg b.state

end Sys2Proof.Machine
end

