-- ==== Sys2Proof/Machine/Step.lean ====
section
/-! DEFINITION. One step of the machine: the environment's next event, performed. -/

namespace Sys2Proof.Machine

/-- One step (R32) of the block with the default configuration `Config.cfg` (log 1): the next event is taken from the
environment (log 4) and performed, a frame that the deframer cuts being run as its instruction. -/
def step (s : State) : Host.Outcome State Fault Refusal :=
  perform Config.cfg (deframe exec) s.env.drawEvent.1 (s.setEnv s.env.drawEvent.2)

/-- The state in which the environment brings about `e` next. -/
def State.offer (e : Event) (s : State) : State := s.setEnv { s.env with agenda := e :: s.env.agenda }

/-- The state in which the very next step fetches and runs the table word `w`: its bytes are the received bytes of an
open connection, and the next event is `Deframe` (log 8). -/
def State.withFetchWord (s : State) (nbits w : Nat) : State :=
  ((s.setConn .opened).setRx (tableBytes nbits w)).offer .deframe

end Sys2Proof.Machine
end

