-- ==== Sys2Proof/WellFormed.lean ====
section
/-! DEFINITION. Well-formedness of an instruction: its frame is one the specification calls legal (R105). -/

namespace Sys2Proof

/-- The payload's length fits the 16-bit length field (R94). -/
def Instr.lengthFits (i : Instr) : Bool :=
  match i.raw with
  | .fixed _ _ _ _ => true
  | .variableLen _ _ payload => decide (payload.length ≤ maxPayload)

/-- The payload has the width of the kind's field schema (R105, D14). -/
def Instr.widthMatches (i : Instr) : Bool :=
  match i.raw, i.kind.schema with
  | .variableLen _ _ payload, .fields fs => payload.length == schemaWidth fs
  | _, _ => true

/-- The destination byte of an instruction. -/
def Instr.destByte (i : Instr) : Byte :=
  match i.raw with
  | .fixed _ _ d _ => d
  | .variableLen d _ _ => d

/-- The source byte of an instruction. -/
def Instr.sourceByte (i : Instr) : Byte :=
  match i.raw with
  | .fixed _ _ _ s => s
  | .variableLen _ s _ => s

/-- Bit 7 of the destination byte agrees with the kind's shape (R95). -/
def Instr.markerMatches (i : Instr) : Bool := i.destByte.msb == (i.kind.shape == .variableLen)

/-- Bits 6:0 of the destination byte are a module code (R105). -/
def Instr.destValid (i : Instr) : Bool := (validate (i.destByte &&& 0x7F)).isSome

/-- The source byte is a module code (R105, R154). -/
def Instr.sourceValid (i : Instr) : Bool := (validate i.sourceByte).isSome

/-- A well-formed instruction: every check passes. -/
def Instr.wellFormed (i : Instr) : Bool :=
  i.lengthFits && i.widthMatches && i.markerMatches && i.destValid && i.sourceValid

end Sys2Proof
end

