-- ==== Sys2Proof/Safety.lean ====
section
/-! DEFINITION. What counts as a safe run, in the terms the statements use: the invariant of the block, the states that
runs reach, and when a frame answers a pending entry. -/

namespace Sys2Proof.Machine

/-! ### Frames and pending entries -/

/-- No pending entry is answered by the frame (R176, R177): it is unsolicited. -/
def State.Unsolicited (s : State) (f : Frame) : Prop :=
  ∀ e ∈ s.pending, ¬(f.id ∈ e.2.respIds ∧ f.source = e.2.dest)

/-- The entry `(t, p)` is answered by the frame, and no entry of smaller tag is (R176, R177). -/
def State.Answers (s : State) (f : Frame) (t : Tag) (p : Pending) : Prop :=
  (t, p) ∈ s.pending ∧ f.id ∈ p.respIds ∧ f.source = p.dest ∧
    ∀ e ∈ s.pending, f.id ∈ e.2.respIds → f.source = e.2.dest → t ≤ e.1

/-- A pending entry says what its operation says (R40, R208). -/
structure Pending.Agrees (p : Pending) : Prop where
  reqId : p.reqId = (p.op.row Config.cfg).kind.id
  respIds : p.respIds = (p.op.row Config.cfg).kind.responses
  requestKey : (p.op.row Config.cfg).requestKey p.dest = some p.key
  channel : p.channel = (p.op.row Config.cfg).ch
  checked : checkInputs Config.cfg (p.op.row Config.cfg) = .ok p.dest

/-- A deferred request says what its operation and its key say (R42, R207). -/
structure Deferred.Agrees (d : Deferred) (key : BusyKey) : Prop where
  requestKey : (d.op.row Config.cfg).requestKey key.dest = some key
  checked : checkInputs Config.cfg (d.op.row Config.cfg) = .ok key.dest
  encoded : (d.op.row Config.cfg).encoded Config.cfg = .ok d.bytes

/-- A frame the block may put on the wire: it decodes, comes from the Host and goes to another module (R156). -/
def WireFrame (bytes : List Byte) : Prop :=
  ∃ f, decodeFrame catalogue bytes = .ok f ∧ f.source = .host ∧ f.dest ≠ .host

/-! ### What a meaning does to the channel file and to the ports -/

/-- The identifier `v` names channel `ch` (R271). -/
def NamesChannel (cfg : Cfg) (v : Nat) (ch : Channel) : Prop :=
  cfg.chanIdent ch = some v ∧ 1 ≤ ch ∧ ch ≤ cfg.numChannels

/-- From `s` to `t`, channel `(m, ch)` changes by `g` and every other channel stays as it was. -/
def State.ChangesChannel (s t : State) (m : ModuleAddress) (ch : Channel) (g : ChannelState → ChannelState) : Prop :=
  t.chanOf m ch = g (s.chanOf m ch) ∧
    ∀ m' ch', (m' ≠ m ∨ ch' ≠ ch) → t.chanOf m' ch' = s.chanOf m' ch'

/-- From `s` to `t`, the channel of `m` that the identifier `v` names changes by `g` and every other channel stays as it
was; where `v` names no channel, the whole channel file stays. -/
def State.ChangesNamed (s t : State) (m : ModuleAddress) (v : Nat) (g : ChannelState → ChannelState) : Prop :=
  (∀ ch, NamesChannel Config.cfg v ch → s.ChangesChannel t m ch g) ∧
    ((∀ ch, ¬NamesChannel Config.cfg v ch) → t.chan = s.chan)

/-- From `s` to `t`, every channel of module `m` changes by `g` and every channel of another module stays as it was. -/
def State.ChangesModule (s t : State) (m : ModuleAddress) (g : ChannelState → ChannelState) : Prop :=
  ∀ m' ch, t.chanOf m' ch = if m' = m then g (s.chanOf m' ch) else s.chanOf m' ch

/-- `exec i` at `s` completes, emits `f` on `NOTIFY`, changes the channel file as `changes` says, and changes nothing
else. -/
def Notifies (i : Instr) (s : State) (f : Frame) (changes : State → Prop) : Prop :=
  ∃ t, exec i s = .next t ∧ t = { s with chan := t.chan, notify := s.notify ++ [f] } ∧ changes t

/-- `exec i` at `s` completes and delivers `f`: on `NOTIFY` where no pending entry is answered; else as the `Reply` that
ends the answered entry, in the state that differs from `s` in the channel file alone. The channel file changes as
`changes` says for the answered entry, before the entry ends (R176, R288). Where nothing is deferred on the answered
entry's key, its end removes the entry, delivers the `Reply` and changes nothing else; where a request is deferred, it
goes on with that request as `finish` does. -/
def Delivers (i : Instr) (s : State) (f : Frame) (changes : Option Pending → State → Prop) : Prop :=
  (s.Unsolicited f → Notifies i s f (changes none)) ∧
    ∀ tag p, s.Answers f tag p →
      ∃ u, exec i s = .next (finish Config.cfg tag p (.reply f) u) ∧ u = { s with chan := u.chan } ∧
        changes (some p) u ∧
        (s.waiting p.key = [] →
          finish Config.cfg tag p (.reply f) u =
            { u with pending := s.pending.filter (fun e => decide (e.1 ≠ tag)),
                     results := s.results ++ [(tag, .reply f)] })

/-- A command at the head of the queue of an open connection, its write answered `ok`, is sent as `bytes` and ends `Ok`;
the channel file and the subscriptions change as `changes` says, and nothing else changes. -/
def Fires (cfg : Cfg) (c : Command) (bytes : List Byte) (changes : State → State → Prop) : Prop :=
  ∀ (s : State) (tag : Tag) (rest : List (Tag × Op)), s.conn = .opened → s.cmdq = (tag, .command c) :: rest →
    s.nextAnswer = .ok →
    ∃ t, process cfg s = t ∧
      t = { s.answered with cmdq := rest, txlog := s.txlog ++ [(bytes, .ok)], results := s.results ++ [(tag, .ok)],
                            chan := t.chan, subs := t.subs } ∧
      changes s t

/-- A request at the head of the queue of an open connection, its key not busy and its write answered `ok`, is sent as
`bytes` and opens the entry `p` (of the time of its issue) under its tag; nothing else changes. -/
def Opens (cfg : Cfg) (c : Command) (bytes : List Byte) (p : Ticks → Pending) : Prop :=
  ∀ (s : State) (tag : Tag) (rest : List (Tag × Op)), s.conn = .opened → s.cmdq = (tag, .command c) :: rest →
    s.nextAnswer = .ok → (∀ e ∈ s.pending, e.2.key ≠ (p s.now).key) →
    ∃ t, process cfg s = t ∧
      t = { s.answered with cmdq := rest, txlog := s.txlog ++ [(bytes, .ok)], pending := t.pending } ∧
      FMap.get? t.pending tag = some (p s.now) ∧ (FMap.Rising id s.pending → FMap.Rising id t.pending) ∧
      ∀ tag', tag' ≠ tag → FMap.get? t.pending tag' = FMap.get? s.pending tag'

/-- What closing the connection makes of every field of `s` (R217, R138, R221, R285). -/
structure State.ClosedTo (s t : State) (reason : CloseReason) : Prop where
  rest : t = { s with conn := .closed, rx := [], pending := [], waitq := [], subs := t.subs, chan := t.chan,
                      results := t.results, events := t.events }
  subs : ∀ m, t.subOf m = .unsubscribed
  chan : ∀ m ch, t.chanOf m ch = { s.chanOf m ch with life := .unknown, enable := .unknown }
  results : ∃ tags : List Tag, tags.Pairwise (· < ·) ∧
    (∀ x, x ∈ tags ↔ x ∈ s.pending.map Prod.fst ∨ x ∈ waitTags s.waitq) ∧
    t.results = s.results ++ tags.map fun x => (x, .err .disconnected)
  events : t.events = s.events ++ (if s.rx = [] then [] else [.truncatedAtClose s.rx.length]) ++
    [.transportError reason]

/-- The moves of a channel's `life` that some event makes (R263). -/
def Life.Moves (a b : Life) : Prop :=
  b = a ∨ b = .unknown ∨ b = .disabled ∨ (b = .enabled ∧ (a = .unknown ∨ a = .disabled)) ∨
    ((b = .homing ∨ b = .moving ∨ b = .jogging) ∧ a ≠ .unknown ∧ a ≠ .disabled) ∨
    (b = .homed ∧ a = .homing) ∨ (b = .completed ∧ (a = .moving ∨ a = .jogging)) ∨
    (b = .stopped ∧ (a = .moving ∨ a = .jogging ∨ a = .homing))

/-- Two channel states with the same caches (R88). -/
def ChannelState.SameCaches (a b : ChannelState) : Prop :=
  a.vel = b.vel ∧ a.jog = b.jog ∧ a.home = b.home ∧ a.lim = b.lim ∧ a.rel = b.rel ∧ a.abs = b.abs ∧ a.adc = b.adc ∧
    a.status = b.status

/-! ### The invariant -/

/-- Every place that holds a tag: the queue, the pending table, the deferred requests, the outcomes. -/
def State.tags (s : State) : List Tag :=
  s.cmdq.map Prod.fst ++ s.pending.map Prod.fst ++ waitTags s.waitq ++ s.results.map Prod.fst

/-- Every tag given so far is in exactly one place, and no other tag is anywhere: an accepted operation is queued, in
flight, or has had its one outcome (R51, R467). -/
def State.OutcomeOnce (s : State) : Prop := ∀ t, s.tags.count t = if t < s.nextTag then 1 else 0

/-- At most one pending entry for each key (R41). -/
def State.OnePending (s : State) : Prop := s.pending.Pairwise fun a b => a.2.key ≠ b.2.key

/-- A closed connection holds nothing in flight and knows nothing of the devices (R217, R221, R285). -/
structure State.ClosedQuiet (s : State) : Prop where
  rx : s.conn = .closed → s.rx = []
  pending : s.conn = .closed → s.pending = []
  waitq : s.conn = .closed → s.waitq = []
  subs : s.conn = .closed → ∀ m, s.subOf m = .unsubscribed
  chan : s.conn = .closed → ∀ e ∈ s.chan, e.2.life = .unknown ∧ e.2.enable = .unknown

/-- The invariant of the block. -/
structure State.Inv (s : State) : Prop where
  /-- the pending table is in its canonical form (log 11) -/
  pendingRising : FMap.Rising id s.pending
  /-- the deferred requests are in their canonical form (log 11) -/
  waitqRising : FMap.Rising BusyKey.rank s.waitq
  /-- a key whose list becomes empty is deleted (R42) -/
  waitqFilled : ∀ e ∈ s.waitq, e.2 ≠ []
  /-- the channel file is in its canonical form (log 11) -/
  chanForm : ChanFile.wf s.chan
  /-- the channel file's channels are `1 .. NUM_CHANNELS` (R44) -/
  chanInRange : ∀ e ∈ s.chan, 1 ≤ e.1.ch ∧ e.1.ch ≤ Config.cfg.numChannels
  /-- at most one pending entry for each key (R41) -/
  onePending : s.OnePending
  /-- a request is deferred only behind a pending one (R207, R212) -/
  deferredBusy : ∀ e ∈ s.waitq, s.busy e.1 = true
  /-- with `FailFast` nothing is deferred (R42) -/
  failFast : Config.cfg.busyPolicy = .failFast → s.waitq = []
  /-- pending entries say what their operations say (R208) -/
  pendingAgrees : ∀ e ∈ s.pending, e.2.Agrees
  /-- deferred requests say what their operations say (R207) -/
  deferredAgrees : ∀ e ∈ s.waitq, ∀ d ∈ e.2, d.Agrees e.1
  /-- every accepted operation is in one place (R51) -/
  outcomeOnce : s.OutcomeOnce
  /-- a closed connection holds nothing in flight (R217) -/
  closedQuiet : s.ClosedQuiet

/-! ### Runs -/

/-- The states that runs reach from reset, whatever the environment does (R32, R450). -/
inductive Reachable : State → Prop where
  | reset (env : Env) : Reachable (State.reset.setEnv env)
  | step {s s' : State} (h : Reachable s) (hs : step s = .next s') : Reachable s'

/-- A safe state: the invariant holds and every frame handed to the transport was a legal one of the Host's. -/
structure State.Safe (s : State) : Prop where
  inv : s.Inv
  wire : ∀ e ∈ s.txlog, WireFrame e.1

end Sys2Proof.Machine
end

