-- ==== Sys2Proof/Certificates/Slice0/Obligations.lean ====
section
/-! DEFINITION. The statements for the provers. Each docstring says which rules of the specification its statement
formalises, and names the log entry where it rests on a choice of the model. -/

open Sys2Proof Sys2Proof.Machine

/-- A frame of each family, written out byte by byte from the encodings of 45_message_catalogue.md, is cut from the stream
as the instruction it stands for: MOD_IDENTIFY, MOD_GET_CHANENABLESTATE, HW_DISCONNECT, RACK_REQ_BAYUSED,
HUB_GET_BAYUSED, MOT_GET_ADCINPUTS, MOT_SET_VELPARAMS, MOT_MOVE_STOP. Derived from 30_encoding.md, sections 2 and 3
(fixed and variable frames); 95_test_vectors.md, part 2. -/
def Obligations.RegisteredWordsDecode : Prop :=
  fetch [0x23, 0x02, 0x00, 0x00, 0x21, 0x01] = .frame (.modIdentify 0x00 0x00 0x21 0x01) [] ∧
  fetch [0x12, 0x02, 0x01, 0x01, 0x01, 0x21] = .frame (.modGetChanenablestate 0x01 0x01 0x01 0x21) [] ∧
  fetch [0x02, 0x00, 0x00, 0x00, 0x01, 0x21] = .frame (.hwDisconnect 0x00 0x00 0x01 0x21) [] ∧
  fetch [0x60, 0x00, 0x03, 0x00, 0x11, 0x01] = .frame (.rackReqBayused 0x03 0x00 0x11 0x01) [] ∧
  fetch [0x66, 0x00, 0x00, 0x00, 0x01, 0x50] = .frame (.hubGetBayused 0x00 0x00 0x01 0x50) [] ∧
  fetch [0x2C, 0x04, 0x04, 0x00, 0x81, 0x21, 0x34, 0x12, 0x78, 0x56] =
    .frame (.motGetAdcinputs 0x81 0x21 [0x34, 0x12, 0x78, 0x56]) [] ∧
  fetch [0x13, 0x04, 0x0E, 0x00, 0xA1, 0x01, 0x01, 0x00, 0x00, 0x00, 0x00, 0x00, 0x90, 0x00, 0x00, 0x00, 0x00, 0x00,
      0x01, 0x00] =
    .frame (.motSetVelparams 0xA1 0x01
      [0x01, 0x00, 0x00, 0x00, 0x00, 0x00, 0x90, 0x00, 0x00, 0x00, 0x00, 0x00, 0x01, 0x00]) [] ∧
  fetch [0x65, 0x04, 0x01, 0x02, 0x21, 0x01] = .frame (.motMoveStop 0x01 0x02 0x21 0x01) []

/-- For every instruction whose payload fits the 16-bit length field, with every operand byte at every value, and for
whatever bytes follow: the stream decoder cuts the encoded frame back to that instruction and leaves exactly the bytes
that follow. It says that no bit of an encoding is dropped, for all 44 kinds. Derived from 30_encoding.md, sections 2
to 5; 40_frame_codec.md, section 3 (stream deframer). -/
def Obligations.StreamRoundTrip : Prop :=
  ∀ (i : Instr) (rest : List Byte), i.lengthFits = true → fetch (encode i ++ rest) = .frame i rest

/-- Whenever the stream decoder cuts an instruction from a buffer, the buffer is that instruction's encoding followed by
the bytes left, and the payload fits the length field: each frame has one meaning, and the bytes removed are exactly a
prefix. Derived from 30_encoding.md, section 5 (length determination); 40_frame_codec.md, section 3 (stream deframer). -/
def Obligations.StreamDecodeIsExact : Prop :=
  ∀ (B : List Byte) (i : Instr) (rest : List Byte),
    fetch B = .frame i rest → B = encode i ++ rest ∧ i.lengthFits = true

/-- For every well-formed catalogue, every kind of it (fixed, with a field schema, or opaque), every two different modules
and every field assignment that passes the schema checks, encode answers a byte sequence, and decode of it answers a
frame with that kind, destination, source and those field values. Formalises R109. -/
def Obligations.FrameRoundTrip : Prop :=
  ∀ cat : List Kind, catalogueWf cat = true → ∀ k ∈ cat, ∀ (d m : ModuleAddress) (fields : FrameFields), d ≠ m →
    fieldsError k.schema fields = none →
    ∃ bs f, encodeFrame cat k.id d.code m.code fields = .ok bs ∧ decodeFrame cat bs = .ok f ∧
      f.id = k.id ∧ f.dest = d ∧ f.source = m ∧ f.shape = k.shape ∧
      (∀ p1 p2, f.body = .fixed p1 p2 → fields = .params [p1.toNat, p2.toNat]) ∧
      (∀ len v, f.body = .variableLen len v → fields = .values v)

/-- For every well-formed catalogue, whenever encode answers bytes, the identifier is registered, the destination is a
module other than the source, and the bytes are: for a fixed kind the six bytes of R91 with the two parameters as
given and bit 7 of byte 4 clear; for a variable kind the header of R92 with the payload's length and bit 7 of byte 4
set, followed by a payload that has the width of a field schema and is the serialisation of the fields, or is the
given byte string of an opaque kind. Derived from 40_frame_codec.md, section 1 (R122 to R125: the layout and the
length law). -/
def Obligations.EncodedFrameLayout : Prop :=
  ∀ (cat : List Kind) (id : MsgId) (dest source : Byte) (fields : FrameFields) (bs : List Byte),
    catalogueWf cat = true → encodeFrame cat id dest source fields = .ok bs →
    ∃ k d m, lookup cat id = some k ∧ validate dest = some d ∧ validate source = some m ∧ d ≠ m ∧
      (k.shape = .fixed → ∃ p1 p2 : Byte, fields = .params [p1.toNat, p2.toNat] ∧
        bs = bytesLe id.toNat 2 ++ [p1, p2, d.code, source] ∧ bs.length = 6 ∧ d.code.msb = false) ∧
      (k.shape = .variableLen → ∃ payload : List Byte,
        bs = bytesLe id.toNat 2 ++ bytesLe payload.length 2 ++ [d.code ||| 0x80, source] ++ payload ∧
        bs.length = 6 + payload.length ∧ payload.length ≤ 65535 ∧ (d.code ||| 0x80).msb = true ∧
        (∀ fs, k.schema = .fields fs → payload.length = schemaWidth fs ∧
          ∃ vs, fields = .values (.record vs) ∧ payload = serFields fs vs) ∧
        (k.schema = .opaqueBytes → fields = .values (.raw payload)))

/-- For every catalogue, identifier, address bytes and fields: an unregistered identifier, then an invalid destination, an
invalid source, equal modules, and then the schema's checks (two params of at most 0xFF; the names of the fields in
order and each value fitting its type; an opaque byte string of at most 65535 bytes) each give the error named, and
only in this order; with none failing the check answers ok. That operands of another form than the schema's (a pair or
a byte string where the schema has fields) are a wrong field count is read from R121 by inference and is the model's
choice (log 13). Derived from 40_frame_codec.md, section 1 (R121); log 13. -/
def Obligations.EncodeChecksInOrder : Prop :=
  (∀ cat id dest source fields, lookup cat id = none →
    encodeCheck cat id dest source fields = .error (.schemaViolation (.unregisteredKind id))) ∧
  (∀ cat id dest source fields k, lookup cat id = some k → validate dest = none →
    encodeCheck cat id dest source fields = .error (.invalidAddress dest)) ∧
  (∀ cat id dest source fields k d, lookup cat id = some k → validate dest = some d → validate source = none →
    encodeCheck cat id dest source fields = .error (.invalidAddress source)) ∧
  (∀ cat id dest source fields k d, lookup cat id = some k → validate dest = some d → validate source = some d →
    encodeCheck cat id dest source fields = .error (.selfAddressed dest)) ∧
  (∀ cat id dest source fields k d m, lookup cat id = some k → validate dest = some d → validate source = some m → d ≠ m →
    (k.schema = .fixed2 → (∀ p1 p2, fields ≠ .params [p1, p2]) →
      encodeCheck cat id dest source fields = .error (.schemaViolation .fieldCount)) ∧
    (∀ p1 p2, k.schema = .fixed2 → fields = .params [p1, p2] → (0xFF < p1 ∨ 0xFF < p2) →
      encodeCheck cat id dest source fields = .error (.schemaViolation (.fieldWidth none))) ∧
    (∀ p1 p2, k.schema = .fixed2 → fields = .params [p1, p2] → p1 ≤ 0xFF → p2 ≤ 0xFF →
      encodeCheck cat id dest source fields = .ok (k, d)) ∧
    (∀ fs, k.schema = .fields fs → (∀ vs, fields = .values (.record vs) → vs.map Prod.fst ≠ fs.map Prod.fst) →
      encodeCheck cat id dest source fields = .error (.schemaViolation .fieldCount)) ∧
    (∀ fs vs before name ty v after, k.schema = .fields fs → fields = .values (.record vs) →
      vs.map Prod.fst = fs.map Prod.fst → fs.zip vs = before ++ ((name, ty), (name, v)) :: after →
      (∀ e ∈ before, e.1.2.fits e.2.2 = true) → ty.fits v = false →
      encodeCheck cat id dest source fields = .error (.schemaViolation (.fieldWidth (some name)))) ∧
    (∀ fs vs, k.schema = .fields fs → fields = .values (.record vs) → vs.map Prod.fst = fs.map Prod.fst →
      (∀ e ∈ fs.zip vs, e.1.2.fits e.2.2 = true) → encodeCheck cat id dest source fields = .ok (k, d)) ∧
    (∀ bs : List Byte, k.schema = .opaqueBytes → fields = .values (.raw bs) → 65535 < bs.length →
      encodeCheck cat id dest source fields = .error (.schemaViolation .length)) ∧
    (∀ bs : List Byte, k.schema = .opaqueBytes → fields = .values (.raw bs) → bs.length ≤ 65535 →
      encodeCheck cat id dest source fields = .ok (k, d)) ∧
    (∀ r, fieldsError k.schema fields = some r → encodeCheck cat id dest source fields = .error (.schemaViolation r)) ∧
    (fieldsError k.schema fields = none → encodeCheck cat id dest source fields = .ok (k, d)))

/-- validate answers the module of its code and nothing else; it accepts exactly 13 of the 256 bytes, namely 0x01 (the
Host), 0x11 (the Motherboard), 0x21 to 0x2A (Bay 0 to Bay 9) and 0x50 (the generic USB unit); strip_dest inverts
format_dest for every module and shape and accepts exactly 26 bytes. Derived from 41_address_resolver.md, section 1
(R150 to R153, R157, and the laws of R158). -/
def Obligations.ModuleCodesAreThirteen : Prop :=
  (∀ a : ModuleAddress, validate a.code = some a) ∧
  (∀ (a : ModuleAddress) (sh : Shape), stripDest (formatDest a sh) = some (a, sh)) ∧
  (∀ b : Byte, (validate b).isSome = true ↔
    b = 0x01 ∨ b = 0x11 ∨ (0x21 ≤ b.toNat ∧ b.toNat ≤ 0x2A) ∨ b = 0x50) ∧
  validate 0x01 = some .host ∧ validate 0x11 = some .motherboard ∧ validate 0x50 = some .genericUSB ∧
  (∀ n : Fin 10, validate (BitVec.ofNat 8 (0x21 + n.val)) = some (.bay n)) ∧
  ((List.range 256).filter fun n => (validate (BitVec.ofNat 8 n)).isSome).length = 13 ∧
  ((List.range 256).filter fun n => (stripDest (BitVec.ofNat 8 n)).isSome).length = 26

/-- For every catalogue and byte sequence: fewer than 2 bytes; an unregistered identifier; fewer than 6 bytes; bytes
beyond 6 of a fixed kind; a payload shorter or longer than announced; an announced length under or over the schema
width; the marker bit; the destination code; the source code: each gives the error named with its information, and
only in this order; with none failing, decode answers the frame built from the bytes. Formalises R127. -/
def Obligations.DecodeChecksInOrder : Prop :=
  (∀ (cat : List Kind) (bs : List Byte), bs.length < 2 → decodeFrame cat bs = .error (.truncatedFrame none bs.length 2)) ∧
  (∀ cat b0 b1 tail, lookup cat (le16 b0 b1) = none →
    decodeFrame cat (b0 :: b1 :: tail) = .error (.unknownMessageId (le16 b0 b1))) ∧
  (∀ cat b0 b1 tail k, lookup cat (le16 b0 b1) = some k → tail.length < 4 →
    decodeFrame cat (b0 :: b1 :: tail) = .error (.truncatedFrame (some (le16 b0 b1)) (tail.length + 2) 6)) ∧
  (∀ cat b0 b1 b2 b3 b4 b5 payload k, lookup cat (le16 b0 b1) = some k →
    let bs := b0 :: b1 :: b2 :: b3 :: b4 :: b5 :: payload
    let len := (le16 b2 b3).toNat
    (k.shape = .fixed → payload ≠ [] → decodeFrame cat bs = .error (.trailingBytes (le16 b0 b1) payload.length)) ∧
    (k.shape = .variableLen → payload.length < len →
      decodeFrame cat bs = .error (.truncatedFrame (some (le16 b0 b1)) payload.length len)) ∧
    (k.shape = .variableLen → len < payload.length →
      decodeFrame cat bs = .error (.trailingBytes (le16 b0 b1) (payload.length - len))) ∧
    (∀ fs, k.shape = .variableLen → payload.length = len → k.schema = .fields fs → len < schemaWidth fs →
      decodeFrame cat bs = .error (.truncatedFrame (some (le16 b0 b1)) len (schemaWidth fs))) ∧
    (∀ fs, k.shape = .variableLen → payload.length = len → k.schema = .fields fs → schemaWidth fs < len →
      decodeFrame cat bs = .error (.trailingBytes (le16 b0 b1) (len - schemaWidth fs))) ∧
    ((k.shape = .fixed ∧ payload = []) ∨
        (k.shape = .variableLen ∧ payload.length = len ∧ ∀ fs, k.schema = .fields fs → len = schemaWidth fs) →
      (b4.msb ≠ (k.shape == .variableLen) → decodeFrame cat bs = .error (.malformedAddressBit (le16 b0 b1) b4)) ∧
      (b4.msb = (k.shape == .variableLen) → validate (b4 &&& 0x7F) = none →
        decodeFrame cat bs = .error (.invalidAddress b4)) ∧
      (∀ d, b4.msb = (k.shape == .variableLen) → validate (b4 &&& 0x7F) = some d → validate b5 = none →
        decodeFrame cat bs = .error (.invalidAddress b5)) ∧
      (∀ d m, b4.msb = (k.shape == .variableLen) → validate (b4 &&& 0x7F) = some d → validate b5 = some m →
        decodeFrame cat bs = .ok { id := le16 b0 b1, dest := d, source := m, body :=
          if k.shape = .fixed then .fixed b2 b3 else .variableLen (le16 b2 b3) (readPayload k.schema payload) })))

/-- For every field schema and every list of values with its names whose values fit their types: the serialised payload is
the concatenation of the fields' bytes in declared order, has the schema's width, and is read back as the same values;
every payload of the schema's width is the serialisation of the fields read from it. Derived from 30_encoding.md,
section 4 (R98); 40_frame_codec.md, sections 1 and 2 (R124, R129). -/
def Obligations.PayloadFieldsInDeclaredOrder : Prop :=
  (∀ (fs : List (FieldName × FieldType)) (vs : List (FieldName × FieldValue)),
    vs.map Prod.fst = fs.map Prod.fst → (∀ e ∈ fs.zip vs, e.1.2.fits e.2.2 = true) →
    serFields fs vs = ((fs.zip vs).map fun e => e.1.2.ser e.2.2).flatten ∧
      (serFields fs vs).length = schemaWidth fs ∧ readPayload (.fields fs) (serFields fs vs) = .record vs) ∧
  (∀ (fs : List (FieldName × FieldType)) (payload : List Byte), payload.length = schemaWidth fs →
    ∃ vs, readPayload (.fields fs) payload = .record vs ∧ vs.map Prod.fst = fs.map Prod.fst ∧
      (∀ e ∈ fs.zip vs, e.1.2.fits e.2.2 = true) ∧ serFields fs vs = payload)

/-- For every instruction whose payload fits the length field: it is well formed exactly when decode of its encoded bytes
answers a frame, and that is the frame (or the error) its meaning judges it by. Derived from 30_encoding.md, section 7
(R105); 40_frame_codec.md, section 2 (decode). -/
def Obligations.WellFormedInstructionsDecode : Prop :=
  ∀ i : Instr, i.lengthFits = true →
    decodeFrame catalogue (encode i) = i.check ∧ (i.wellFormed = true ↔ ∃ f, decodeFrame catalogue (encode i) = .ok f)

/-- construct answers a block for a configuration exactly when its catalogue is well formed, and the block has that
configuration and the reset state. A catalogue is well formed exactly when its identifiers are distinct, a kind is
fixed exactly when its schema is Fixed2, a payload is at most 65535 bytes wide, every Bytes(n) has n at least 1,
responses and families are as R171, R175 and R179 ask (a response comes from a device), and the five identifiers of
R300 have the values given there: 0x0223 is MOD_IDENTIFY and fixed, 0x0220 is MOD_SET_CHANENABLESTATE, 0x0221 is
MOD_REQ_CHANENABLESTATE and answered by 0x0212, 0x0212 is MOD_GET_CHANENABLESTATE, 0x0464 is MOT_MOVE_COMPLETED and a
report from a device (that a response comes from a device is read from R179, that 0x0212 is a response from R175, and
that 0x0464 is a report from a device from the text below the table of R300, log 23). The default catalogue has 44
kinds and is well formed, and the default codes are those of R346 (that the block of step takes the defaults is the
model's choice, log 1 and log 2). Derived from 00_scope.md, section 3 (R10, R14); 30_encoding.md, section 4 (R99);
42_registry_dispatch.md, sections 1 and 2 (R171, R175, R179); 45_message_catalogue.md, sections 1 and 7 (R300, R301,
R346); 70_reset_and_hazards.md, section 1 (R451); log 1; log 2; log 23. -/
def Obligations.CatalogueIsWellFormed : Prop :=
  (∀ (cfg : Cfg) (b : Block), construct cfg = some b ↔ catalogueWf cfg.catalogue = true ∧ b = ⟨cfg, State.reset⟩) ∧
  (∀ cat : List Kind, catalogueWf cat = true ↔
    (cat.map Kind.id).Nodup ∧
    (∀ k ∈ cat, (k.shape = .fixed ↔ k.schema = .fixed2) ∧ k.schema.width ≤ 65535 ∧
      (∀ fs, k.schema = .fields fs → ∀ name n, (name, FieldType.bytes n) ∈ fs → 1 ≤ n) ∧
      (k.responses ≠ [] ↔ k.role = .request) ∧ (k.role = .request ∨ k.role = .set → ∃ fam, k.family = some fam) ∧
      (∀ r ∈ k.responses, ∃ k' ∈ cat, k'.id = r ∧ k'.role = .response ∧ k'.dir = .deviceToHost ∧
        k'.family = k.family) ∧
      (∀ k' ∈ cat, k'.family ≠ k.family → ∀ r ∈ k.responses, r ∉ k'.responses)) ∧
    (∃ k, lookup cat 0x0223 = some k ∧ named cat .modIdentify = some k ∧ k.shape = .fixed) ∧
    (∃ k, lookup cat 0x0220 = some k ∧ named cat .modSetChanenablestate = some k) ∧
    (∃ k, lookup cat 0x0221 = some k ∧ named cat .modReqChanenablestate = some k ∧ 0x0212 ∈ k.responses) ∧
    (∃ k, lookup cat 0x0212 = some k ∧ named cat .modGetChanenablestate = some k ∧ k.role = .response) ∧
    (∃ k, lookup cat 0x0464 = some k ∧ named cat .motMoveCompleted = some k ∧ k.role = .report ∧ k.dir = .deviceToHost)) ∧
  catalogue.length = 44 ∧ catalogueWf catalogue = true ∧
  (∀ p : Params, construct p.withDefaults = some ⟨p.withDefaults, State.reset⟩ ∧
    p.withDefaults.catalogue = catalogue ∧ p.withDefaults.numChannels = p.numChannels ∧
    p.withDefaults.defaultTimeout = p.defaultTimeout ∧ p.withDefaults.busyPolicy = p.busyPolicy ∧
    p.withDefaults.chanIdent 1 = some 0x01 ∧ p.withDefaults.chanIdent 2 = some 0x02 ∧
    p.withDefaults.chanIdent 3 = some 0x04 ∧ p.withDefaults.chanIdent 4 = some 0x08 ∧
    (∀ ch, (ch < 1 ∨ 4 < ch) → p.withDefaults.chanIdent ch = none) ∧
    p.withDefaults.enableCode true = 0x01 ∧ p.withDefaults.enableCode false = 0x02 ∧
    p.withDefaults.dirCode .forward = 0x01 ∧ p.withDefaults.dirCode .reverse = 0x02 ∧
    p.withDefaults.stopCode .immediate = 0x01 ∧ p.withDefaults.stopCode .profiled = 0x02)

/-- When the environment's next event is Deframe, the connection is open and the bytes at the head of rx decode to an
instruction, the step is exec of that instruction at the state whose rx holds the bytes after it. The choice of the
next event is the model's (log 4). Derived from 40_frame_codec.md, section 3 (R133, R137); log 4. -/
def Obligations.StepRunsInstruction : Prop :=
  ∀ (s : State) (env : Env) (i : Instr) (rest : List Byte),
    s.env.drawEvent = (.deframe, env) → s.conn = .opened → fetch s.rx = .frame i rest →
    step s = exec i ((s.setEnv env).setRx rest)

/-- step is the step of the block whose configuration is Config.cfg (that Config.cfg has the defaults of the specification
is the model's choice, log 1). For every configuration, when the environment's next event is Deframe, the connection
is open and the head of rx is a whole frame of a kind of its catalogue, its block removes the frame and receives it
with the effect of that kind, which is found by the kind's name (the model's choice, log 25); a kind from the host to
a device has none. When the next event is Process, the step of a block of any configuration, and of the machine, is
process of its state; with an empty queue the event is not enabled, and the model changes nothing but its environment
(its own choice, log 5). A legal frame of an opaque kind decodes to its payload bytes uninterpreted. Derived from
00_scope.md, section 3 (R10); 40_frame_codec.md, section 3 (R133); 44_channel_state.md, section 4 (R271);
30_encoding.md, section 4 (R101); 43_transaction_engine.md, section 2 (R202); 42_registry_dispatch.md, section 2
(R179); log 1; log 4; log 5; log 25. -/
def Obligations.StepIsTheDefaultBlock : Prop :=
  (∀ s : State, step s = stepIn Config.cfg s) ∧ (∃ p : Params, Config.cfg = p.withDefaults) ∧
  (∀ (cfg : Cfg) (s : State) (env : Env) (k : Kind) (raw : RawFrame) (rest : List Byte),
    s.env.drawEvent = (.deframe, env) → s.conn = .opened → cut cfg.catalogue s.rx = .frame k raw rest →
    stepIn cfg s = receiveFrame cfg k (kindEffect cfg k) raw ((s.setEnv env).setRx rest)) ∧
  (∀ (cfg : Cfg) (k : Kind), k.dir = .hostToDevice → kindEffect cfg k = .nothing) ∧
  (∀ (cfg : Cfg) (s : State) (env : Env), s.env.drawEvent = (.process, env) →
    stepIn cfg s = .next (process cfg (s.setEnv env)) ∧
    step s = .next (process Config.cfg (s.setEnv env)) ∧
    (s.cmdq = [] → stepIn cfg s = .next (s.setEnv env))) ∧
  (∀ (k : Kind) (dest source : Byte) (d m : ModuleAddress) (payload : List Byte), k.shape = .variableLen →
    k.schema = .opaqueBytes → validate dest = some d → validate source = some m →
    checkRaw k (.variableLen (dest ||| 0x80) source payload) =
      .ok { id := k.id, dest := d, source := m, body := .variableLen (BitVec.ofNat 16 payload.length) (.raw payload) })

/-- On an open connection whose first two bytes are no registered identifier, the Deframe step drops exactly one byte of
rx and reports UnknownMessageId for that identifier with dropped = 1; nothing else changes. Formalises R135. -/
def Obligations.UnknownIdentifierDropsOneByte : Prop :=
  ∀ (s : State) (b0 b1 : Byte) (tail : List Byte), s.conn = .opened → s.rx = b0 :: b1 :: tail →
    lookup catalogue (le16 b0 b1) = none →
    step (s.offer .deframe) =
      .next { s with rx := b1 :: tail, events := s.events ++ [.decodeError (.unknownMessageId (le16 b0 b1)) 1] }

/-- Under every catalogue ready(B) holds exactly when B has 2 bytes and either an unregistered identifier, or 6 bytes and
as many as the kind's length (6, or 6 plus the announced length); when it does not hold, and on a closed connection,
the deframer is not enabled: there is no output and the bytes stay (that the model counts this as a step which changes
nothing is its own choice, log 5). Derived from 40_frame_codec.md, section 3 (R133, R134); log 5. -/
def Obligations.DeframerHoldsUntilReady : Prop :=
  (∀ (cat : List Kind) (B : List Byte), ready cat B = true ↔
    2 ≤ B.length ∧ (lookup cat (le16 (B.getD 0 0) (B.getD 1 0)) = none ∨
      ∃ k, lookup cat (le16 (B.getD 0 0) (B.getD 1 0)) = some k ∧ 6 ≤ B.length ∧
        (k.shape = .variableLen → 6 + (le16 (B.getD 2 0) (B.getD 3 0)).toNat ≤ B.length))) ∧
  (∀ s : State, ready catalogue s.rx = false → step (s.offer .deframe) = .next s) ∧
  (∀ s : State, s.conn = .closed → step (s.offer .deframe) = .next s)

/-- For every instruction whose frame decode rejects, exec completes and appends that error, with the number of bytes of
the frame, to events; the Deframe step that cuts it also removes its bytes from rx; an unknown identifier drops one
byte and is logged. Nothing else changes: the connection, the pending table and the channel file stay. Formalises
R415. -/
def Obligations.FramingErrorsOnlyLogged : Prop :=
  (∀ (i : Instr) (s : State) (e : DecodeError), i.check = .error e →
    exec i s = .next { s with events := s.events ++ [.decodeError e (encode i).length] }) ∧
  (∀ (i : Instr) (s : State) (e : DecodeError) (rest : List Byte), s.conn = .opened → fetch s.rx = .frame i rest →
    i.check = .error e →
    step (s.offer .deframe) =
      .next { s with rx := rest, events := s.events ++ [.decodeError e (encode i).length] }) ∧
  (∀ (s : State) (id : MsgId), s.conn = .opened → fetch s.rx = .unknown id →
    step (s.offer .deframe) =
      .next { s with rx := s.rx.drop 1, events := s.events ++ [.decodeError (.unknownMessageId id) 1] })

/-- For every state, if a Deframe step answers a next state then the bytes left in rx are a suffix of the bytes that were
there: none is reordered, merged, duplicated or added. Derived from 40_frame_codec.md, section 3 (R139); 20_memory.md,
section 3 (R78). -/
def Obligations.DeframeRemovesPrefix : Prop :=
  ∀ s t : State, step (s.offer .deframe) = .next t → ∃ removed : List Byte, s.rx = removed ++ t.rx

/-- On an open connection the Receive step appends the bytes to rx and does nothing else; on a closed one it drops them
and changes nothing. At reset rx is empty. Formalises R36. -/
def Obligations.ReceiveAppends : Prop :=
  (∀ (s : State) (bs : List Byte), s.conn = .opened →
    step (s.offer (.receive bs)) = .next { s with rx := s.rx ++ bs }) ∧
  (∀ (s : State) (bs : List Byte), s.conn = .closed → step (s.offer (.receive bs)) = .next s) ∧
  State.reset.rx = []

/-- exec of MOD_IDENTIFY, MOD_SET_CHANENABLESTATE, MOD_REQ_CHANENABLESTATE, HW_START_UPDATEMSGS, HW_STOP_UPDATEMSGS,
HW_REQ_INFO, RACK_REQ_BAYUSED, HUB_REQ_BAYUSED, MOT_REQ_VELPARAMS, MOT_REQ_JOGPARAMS, MOT_REQ_LIMSWITCHPARAMS,
MOT_REQ_ADCINPUTS, MOT_REQ_HOMEPARAMS, MOT_MOVE_HOME, MOT_REQ_MOVERELPARAMS, MOT_MOVE_RELATIVE, MOT_REQ_MOVEABSPARAMS,
MOT_MOVE_ABSOLUTE, MOT_MOVE_VELOCITY, MOT_MOVE_STOP, MOT_MOVE_JOG completes for every two parameter bytes and legal
address bytes, whatever is pending: it appends the decoded frame to notify and changes nothing else. Derived from
42_registry_dispatch.md, section 2 (R179); 44_channel_state.md, section 4 (R286). -/
def Obligations.HostFixedFramesOnlyNotified : Prop :=
  ∀ (s : State) (p1 p2 dest source : Byte) (d m : ModuleAddress), (∀ e ∈ s.pending, e.2.Agrees) →
    validate dest = some d → validate source = some m →
    Notifies (.modIdentify p1 p2 dest source) s { id := 0x0223, dest := d, source := m, body := .fixed p1 p2 } (·.chan = s.chan) ∧
    Notifies (.modSetChanenablestate p1 p2 dest source) s { id := 0x0220, dest := d, source := m, body := .fixed p1 p2 } (·.chan = s.chan) ∧
    Notifies (.modReqChanenablestate p1 p2 dest source) s { id := 0x0221, dest := d, source := m, body := .fixed p1 p2 } (·.chan = s.chan) ∧
    Notifies (.hwStartUpdatemsgs p1 p2 dest source) s { id := 0x0011, dest := d, source := m, body := .fixed p1 p2 } (·.chan = s.chan) ∧
    Notifies (.hwStopUpdatemsgs p1 p2 dest source) s { id := 0x0012, dest := d, source := m, body := .fixed p1 p2 } (·.chan = s.chan) ∧
    Notifies (.hwReqInfo p1 p2 dest source) s { id := 0x0005, dest := d, source := m, body := .fixed p1 p2 } (·.chan = s.chan) ∧
    Notifies (.rackReqBayused p1 p2 dest source) s { id := 0x0060, dest := d, source := m, body := .fixed p1 p2 } (·.chan = s.chan) ∧
    Notifies (.hubReqBayused p1 p2 dest source) s { id := 0x0065, dest := d, source := m, body := .fixed p1 p2 } (·.chan = s.chan) ∧
    Notifies (.motReqVelparams p1 p2 dest source) s { id := 0x0414, dest := d, source := m, body := .fixed p1 p2 } (·.chan = s.chan) ∧
    Notifies (.motReqJogparams p1 p2 dest source) s { id := 0x0417, dest := d, source := m, body := .fixed p1 p2 } (·.chan = s.chan) ∧
    Notifies (.motReqLimswitchparams p1 p2 dest source) s { id := 0x0424, dest := d, source := m, body := .fixed p1 p2 } (·.chan = s.chan) ∧
    Notifies (.motReqAdcinputs p1 p2 dest source) s { id := 0x042B, dest := d, source := m, body := .fixed p1 p2 } (·.chan = s.chan) ∧
    Notifies (.motReqHomeparams p1 p2 dest source) s { id := 0x0441, dest := d, source := m, body := .fixed p1 p2 } (·.chan = s.chan) ∧
    Notifies (.motMoveHome p1 p2 dest source) s { id := 0x0443, dest := d, source := m, body := .fixed p1 p2 } (·.chan = s.chan) ∧
    Notifies (.motReqMoverelparams p1 p2 dest source) s { id := 0x0446, dest := d, source := m, body := .fixed p1 p2 } (·.chan = s.chan) ∧
    Notifies (.motMoveRelative p1 p2 dest source) s { id := 0x0448, dest := d, source := m, body := .fixed p1 p2 } (·.chan = s.chan) ∧
    Notifies (.motReqMoveabsparams p1 p2 dest source) s { id := 0x0451, dest := d, source := m, body := .fixed p1 p2 } (·.chan = s.chan) ∧
    Notifies (.motMoveAbsolute p1 p2 dest source) s { id := 0x0453, dest := d, source := m, body := .fixed p1 p2 } (·.chan = s.chan) ∧
    Notifies (.motMoveVelocity p1 p2 dest source) s { id := 0x0457, dest := d, source := m, body := .fixed p1 p2 } (·.chan = s.chan) ∧
    Notifies (.motMoveStop p1 p2 dest source) s { id := 0x0465, dest := d, source := m, body := .fixed p1 p2 } (·.chan = s.chan) ∧
    Notifies (.motMoveJog p1 p2 dest source) s { id := 0x046A, dest := d, source := m, body := .fixed p1 p2 } (·.chan = s.chan)

/-- exec of MOT_SET_VELPARAMS, MOT_SET_JOGPARAMS, MOT_SET_LIMSWITCHPARAMS, MOT_SET_HOMEPARAMS, MOT_SET_MOVERELPARAMS,
MOT_SET_MOVEABSPARAMS completes for every field values of the schema's widths and legal address bytes, whatever is
pending: it appends the decoded frame with its fields, little-endian in declared order, to notify and changes nothing
else. Derived from 42_registry_dispatch.md, section 2 (R179); 44_channel_state.md, section 4 (R286);
45_message_catalogue.md (R317, R320, R323, R328, R333, R337). -/
def Obligations.HostSetFramesOnlyNotified : Prop :=
  ∀ (s : State) (dest source : Byte) (d m : ModuleAddress), (∀ e ∈ s.pending, e.2.Agrees) →
    validate dest = some d → validate source = some m →
    (∀ v minVel accn maxVel : Nat, v < 2 ^ 16 → minVel < 2 ^ 32 → accn < 2 ^ 32 → maxVel < 2 ^ 32 →
      Notifies (.motSetVelparams (dest ||| 0x80) source
          (bytesLe v 2 ++ bytesLe minVel 4 ++ bytesLe accn 4 ++ bytesLe maxVel 4)) s
        { id := 0x0413, dest := d, source := m, body := .variableLen 14 (.record
          [(.chanIdent, .uint v), (.minVel, .uint minVel), (.accn, .uint accn), (.maxVel, .uint maxVel)]) }
        (·.chan = s.chan)) ∧
    (∀ v jogMode jogStepSize jogMinVel jogAccn jogMaxVel stopMode : Nat, v < 2 ^ 16 → jogMode < 2 ^ 16 → jogStepSize < 2 ^ 32 → jogMinVel < 2 ^ 32 → jogAccn < 2 ^ 32 → jogMaxVel < 2 ^ 32 → stopMode < 2 ^ 16 →
      Notifies (.motSetJogparams (dest ||| 0x80) source
          (bytesLe v 2 ++ bytesLe jogMode 2 ++ bytesLe jogStepSize 4 ++ bytesLe jogMinVel 4 ++ bytesLe jogAccn 4 ++ bytesLe jogMaxVel 4 ++ bytesLe stopMode 2)) s
        { id := 0x0416, dest := d, source := m, body := .variableLen 22 (.record
          [(.chanIdent, .uint v), (.jogMode, .uint jogMode), (.jogStepSize, .uint jogStepSize), (.jogMinVel, .uint jogMinVel), (.jogAccn, .uint jogAccn), (.jogMaxVel, .uint jogMaxVel), (.stopMode, .uint stopMode)]) }
        (·.chan = s.chan)) ∧
    (∀ v cwHardLimit ccwHardLimit cwSoftLimit ccwSoftLimit limitMode : Nat, v < 2 ^ 16 → cwHardLimit < 2 ^ 16 → ccwHardLimit < 2 ^ 16 → cwSoftLimit < 2 ^ 32 → ccwSoftLimit < 2 ^ 32 → limitMode < 2 ^ 16 →
      Notifies (.motSetLimswitchparams (dest ||| 0x80) source
          (bytesLe v 2 ++ bytesLe cwHardLimit 2 ++ bytesLe ccwHardLimit 2 ++ bytesLe cwSoftLimit 4 ++ bytesLe ccwSoftLimit 4 ++ bytesLe limitMode 2)) s
        { id := 0x0423, dest := d, source := m, body := .variableLen 16 (.record
          [(.chanIdent, .uint v), (.cwHardLimit, .uint cwHardLimit), (.ccwHardLimit, .uint ccwHardLimit), (.cwSoftLimit, .uint cwSoftLimit), (.ccwSoftLimit, .uint ccwSoftLimit), (.limitMode, .uint limitMode)]) }
        (·.chan = s.chan)) ∧
    (∀ v homeDir limitSwitch homeVelocity offsetDistance : Nat, v < 2 ^ 16 → homeDir < 2 ^ 16 → limitSwitch < 2 ^ 16 → homeVelocity < 2 ^ 32 → offsetDistance < 2 ^ 32 →
      Notifies (.motSetHomeparams (dest ||| 0x80) source
          (bytesLe v 2 ++ bytesLe homeDir 2 ++ bytesLe limitSwitch 2 ++ bytesLe homeVelocity 4 ++ bytesLe offsetDistance 4)) s
        { id := 0x0440, dest := d, source := m, body := .variableLen 14 (.record
          [(.chanIdent, .uint v), (.homeDir, .uint homeDir), (.limitSwitch, .uint limitSwitch), (.homeVelocity, .uint homeVelocity), (.offsetDistance, .uint offsetDistance)]) }
        (·.chan = s.chan)) ∧
    (∀ v relativeDistance : Nat, v < 2 ^ 16 → relativeDistance < 2 ^ 32 →
      Notifies (.motSetMoverelparams (dest ||| 0x80) source
          (bytesLe v 2 ++ bytesLe relativeDistance 4)) s
        { id := 0x0445, dest := d, source := m, body := .variableLen 6 (.record
          [(.chanIdent, .uint v), (.relativeDistance, .uint relativeDistance)]) }
        (·.chan = s.chan)) ∧
    (∀ v absolutePosition : Nat, v < 2 ^ 16 → absolutePosition < 2 ^ 32 →
      Notifies (.motSetMoveabsparams (dest ||| 0x80) source
          (bytesLe v 2 ++ bytesLe absolutePosition 4)) s
        { id := 0x0450, dest := d, source := m, body := .variableLen 6 (.record
          [(.chanIdent, .uint v), (.absolutePosition, .uint absolutePosition)]) }
        (·.chan = s.chan))

/-- exec of MOD_GET_CHANENABLESTATE completes: the frame is delivered (on NOTIFY, or as the Reply that ends the entry it
answers) and the channel of the source module that param1 names is enabled by code 0x01 (life moves only from Unknown
and Disabled), disabled by code 0x02, and left alone by any other code; every other channel and all else stay. Where a
request is deferred on the answered entry's key, the entry's end goes on with it as finish does. The codes 0x01 and
0x02, and the identifiers 0x01, 0x02, 0x04 and 0x08 of the channels, are R346's defaults: that the block of step takes
them is the model's choice (log 2). Derived from 44_channel_state.md, section 4 (R271, R272); 42_registry_dispatch.md,
section 2 (R176, R177); 45_message_catalogue.md (R305, R346); log 2. -/
def Obligations.EnableStateReport : Prop :=
  ∀ (s : State) (p1 p2 dest source : Byte) (d m : ModuleAddress), FMap.Rising id s.pending →
    validate dest = some d → validate source = some m →
    Delivers (.modGetChanenablestate p1 p2 dest source) s
      { id := 0x0212, dest := d, source := m, body := .fixed p1 p2 }
      fun _ t => s.ChangesNamed t m p1.toNat fun c =>
        if p2 = 0x01 then
          { c with enable := .known true,
                   life := if c.life = .unknown ∨ c.life = .disabled then .enabled else c.life }
        else if p2 = 0x02 then { c with enable := .known false, life := .disabled }
        else c

/-- exec of MOT_GET_VELPARAMS, MOT_GET_JOGPARAMS, MOT_GET_HOMEPARAMS, MOT_GET_LIMSWITCHPARAMS, MOT_GET_MOVERELPARAMS and
MOT_GET_MOVEABSPARAMS completes for all field values: the frame is delivered (on NOTIFY, or as the Reply that ends the
entry it answers), and the channel that ChanIdent names gets the frame's fields in vel, jog, home, lim, rel or abs;
its life, its enable flag, its other caches, every other channel and all else stay. Where a request is deferred on the
answered entry's key, the entry's end goes on with it as finish does. Derived from 44_channel_state.md, section 4
(R271, R273 to R278); 42_registry_dispatch.md, section 2 (R176, R177); 45_message_catalogue.md (R319, R322, R325,
R330, R335, R339). -/
def Obligations.ParameterReports : Prop :=
  ∀ (s : State) (dest source : Byte) (d m : ModuleAddress), FMap.Rising id s.pending →
    validate dest = some d → validate source = some m →
    (∀ v minVel accn maxVel : Nat, v < 2 ^ 16 → minVel < 2 ^ 32 → accn < 2 ^ 32 → maxVel < 2 ^ 32 →
      Delivers (.motGetVelparams (dest ||| 0x80) source
          (bytesLe v 2 ++ bytesLe minVel 4 ++ bytesLe accn 4 ++ bytesLe maxVel 4)) s
        { id := 0x0415, dest := d, source := m, body := .variableLen 14 (.record
          [(.chanIdent, .uint v), (.minVel, .uint minVel), (.accn, .uint accn), (.maxVel, .uint maxVel)]) }
        fun _ t => s.ChangesNamed t m v fun c => { c with vel := some (.record
          [(.chanIdent, .uint v), (.minVel, .uint minVel), (.accn, .uint accn), (.maxVel, .uint maxVel)]) }) ∧
    (∀ v jogMode jogStepSize jogMinVel jogAccn jogMaxVel stopMode : Nat, v < 2 ^ 16 → jogMode < 2 ^ 16 → jogStepSize < 2 ^ 32 → jogMinVel < 2 ^ 32 → jogAccn < 2 ^ 32 → jogMaxVel < 2 ^ 32 → stopMode < 2 ^ 16 →
      Delivers (.motGetJogparams (dest ||| 0x80) source
          (bytesLe v 2 ++ bytesLe jogMode 2 ++ bytesLe jogStepSize 4 ++ bytesLe jogMinVel 4 ++ bytesLe jogAccn 4 ++ bytesLe jogMaxVel 4 ++ bytesLe stopMode 2)) s
        { id := 0x0418, dest := d, source := m, body := .variableLen 22 (.record
          [(.chanIdent, .uint v), (.jogMode, .uint jogMode), (.jogStepSize, .uint jogStepSize), (.jogMinVel, .uint jogMinVel), (.jogAccn, .uint jogAccn), (.jogMaxVel, .uint jogMaxVel), (.stopMode, .uint stopMode)]) }
        fun _ t => s.ChangesNamed t m v fun c => { c with jog := some (.record
          [(.chanIdent, .uint v), (.jogMode, .uint jogMode), (.jogStepSize, .uint jogStepSize), (.jogMinVel, .uint jogMinVel), (.jogAccn, .uint jogAccn), (.jogMaxVel, .uint jogMaxVel), (.stopMode, .uint stopMode)]) }) ∧
    (∀ v homeDir limitSwitch homeVelocity offsetDistance : Nat, v < 2 ^ 16 → homeDir < 2 ^ 16 → limitSwitch < 2 ^ 16 → homeVelocity < 2 ^ 32 → offsetDistance < 2 ^ 32 →
      Delivers (.motGetHomeparams (dest ||| 0x80) source
          (bytesLe v 2 ++ bytesLe homeDir 2 ++ bytesLe limitSwitch 2 ++ bytesLe homeVelocity 4 ++ bytesLe offsetDistance 4)) s
        { id := 0x0442, dest := d, source := m, body := .variableLen 14 (.record
          [(.chanIdent, .uint v), (.homeDir, .uint homeDir), (.limitSwitch, .uint limitSwitch), (.homeVelocity, .uint homeVelocity), (.offsetDistance, .uint offsetDistance)]) }
        fun _ t => s.ChangesNamed t m v fun c => { c with home := some (.record
          [(.chanIdent, .uint v), (.homeDir, .uint homeDir), (.limitSwitch, .uint limitSwitch), (.homeVelocity, .uint homeVelocity), (.offsetDistance, .uint offsetDistance)]) }) ∧
    (∀ v cwHardLimit ccwHardLimit cwSoftLimit ccwSoftLimit limitMode : Nat, v < 2 ^ 16 → cwHardLimit < 2 ^ 16 → ccwHardLimit < 2 ^ 16 → cwSoftLimit < 2 ^ 32 → ccwSoftLimit < 2 ^ 32 → limitMode < 2 ^ 16 →
      Delivers (.motGetLimswitchparams (dest ||| 0x80) source
          (bytesLe v 2 ++ bytesLe cwHardLimit 2 ++ bytesLe ccwHardLimit 2 ++ bytesLe cwSoftLimit 4 ++ bytesLe ccwSoftLimit 4 ++ bytesLe limitMode 2)) s
        { id := 0x0425, dest := d, source := m, body := .variableLen 16 (.record
          [(.chanIdent, .uint v), (.cwHardLimit, .uint cwHardLimit), (.ccwHardLimit, .uint ccwHardLimit), (.cwSoftLimit, .uint cwSoftLimit), (.ccwSoftLimit, .uint ccwSoftLimit), (.limitMode, .uint limitMode)]) }
        fun _ t => s.ChangesNamed t m v fun c => { c with lim := some (.record
          [(.chanIdent, .uint v), (.cwHardLimit, .uint cwHardLimit), (.ccwHardLimit, .uint ccwHardLimit), (.cwSoftLimit, .uint cwSoftLimit), (.ccwSoftLimit, .uint ccwSoftLimit), (.limitMode, .uint limitMode)]) }) ∧
    (∀ v relativeDistance : Nat, v < 2 ^ 16 → relativeDistance < 2 ^ 32 →
      Delivers (.motGetMoverelparams (dest ||| 0x80) source
          (bytesLe v 2 ++ bytesLe relativeDistance 4)) s
        { id := 0x0447, dest := d, source := m, body := .variableLen 6 (.record
          [(.chanIdent, .uint v), (.relativeDistance, .uint relativeDistance)]) }
        fun _ t => s.ChangesNamed t m v fun c => { c with rel := some (.record
          [(.chanIdent, .uint v), (.relativeDistance, .uint relativeDistance)]) }) ∧
    (∀ v absolutePosition : Nat, v < 2 ^ 16 → absolutePosition < 2 ^ 32 →
      Delivers (.motGetMoveabsparams (dest ||| 0x80) source
          (bytesLe v 2 ++ bytesLe absolutePosition 4)) s
        { id := 0x0452, dest := d, source := m, body := .variableLen 6 (.record
          [(.chanIdent, .uint v), (.absolutePosition, .uint absolutePosition)]) }
        fun _ t => s.ChangesNamed t m v fun c => { c with abs := some (.record
          [(.chanIdent, .uint v), (.absolutePosition, .uint absolutePosition)]) })

/-- exec of MOT_GET_ADCINPUTS completes for all field values: the frame is delivered; as the Reply to an entry that names
a channel it is cached in adc of that channel of the source module; unsolicited, or for an entry without a channel,
the channel file stays. Where a request is deferred on the answered entry's key, the entry's end goes on with it as
finish does. Derived from 44_channel_state.md, section 4 (R271, R279); 42_registry_dispatch.md, section 2 (R176,
R177); 45_message_catalogue.md (R327). -/
def Obligations.AdcReport : Prop :=
  ∀ (s : State) (dest source : Byte) (d m : ModuleAddress) (a b : Nat), FMap.Rising id s.pending →
    validate dest = some d → validate source = some m → a < 2 ^ 16 → b < 2 ^ 16 →
    Delivers (.motGetAdcinputs (dest ||| 0x80) source (bytesLe a 2 ++ bytesLe b 2)) s
      { id := 0x042C, dest := d, source := m, body := .variableLen 4 (.record
        [(.adcInput1, .uint a), (.adcInput2, .uint b)]) }
      fun p t =>
        (∀ e ch, p = some e → e.channel = some ch → s.ChangesChannel t m ch fun c =>
          { c with adc := some (.record [(.adcInput1, .uint a), (.adcInput2, .uint b)]) }) ∧
        ((∀ e, p = some e → e.channel = none) → t.chan = s.chan)

/-- exec of HW_GET_INFO, RACK_GET_BAYUSED and HUB_GET_BAYUSED completes: the frame, with the nine fields of the hardware
information as they stand in the payload, is delivered on NOTIFY or as the Reply that ends the entry it answers; the
channel file and all else stay. Where a request is deferred on the answered entry's key, the entry's end goes on with
it as finish does. Derived from 44_channel_state.md, section 4 (R286); 42_registry_dispatch.md, section 2 (R176,
R177); 45_message_catalogue.md (R312, R314, R316). -/
def Obligations.InformationReplies : Prop :=
  ∀ (s : State) (p1 p2 dest source : Byte) (d m : ModuleAddress), FMap.Rising id s.pending →
    validate dest = some d → validate source = some m →
    (∀ (serial hwType hwVer modState numCh : Nat) (model fw notes empty : List Byte), serial < 2 ^ 32 → model.length = 8 → hwType < 2 ^ 16 → fw.length = 4 → notes.length = 48 → empty.length = 12 → hwVer < 2 ^ 16 → modState < 2 ^ 16 → numCh < 2 ^ 16 →
      Delivers (.hwGetInfo (dest ||| 0x80) source
          (bytesLe serial 4 ++ model ++ bytesLe hwType 2 ++ fw ++ notes ++ empty ++ bytesLe hwVer 2 ++ bytesLe modState 2 ++ bytesLe numCh 2)) s
        { id := 0x0006, dest := d, source := m, body := .variableLen 84 (.record
          [(.serial, .uint serial), (.model, .bytes model), (.hwType, .uint hwType), (.fw, .bytes fw), (.notes, .bytes notes), (.empty, .bytes empty), (.hwVer, .uint hwVer), (.modState, .uint modState), (.numCh, .uint numCh)]) }
        fun _ t => t.chan = s.chan) ∧
    Delivers (.rackGetBayused p1 p2 dest source) s
      { id := 0x0061, dest := d, source := m, body := .fixed p1 p2 } (fun _ t => t.chan = s.chan) ∧
    Delivers (.hubGetBayused p1 p2 dest source) s
      { id := 0x0066, dest := d, source := m, body := .fixed p1 p2 } (fun _ t => t.chan = s.chan)

/-- exec of MOT_MOVE_HOMED completes: the frame is emitted on NOTIFY and the channel of the source module that param1
names becomes Homed if it is Homing; its other fields, every other channel and all else stay. Derived from
44_channel_state.md, section 4 (R280); 42_registry_dispatch.md, section 2 (R178); 45_message_catalogue.md (R332). -/
def Obligations.HomedReport : Prop :=
  ∀ (s : State) (p1 p2 dest source : Byte) (d m : ModuleAddress), (∀ e ∈ s.pending, e.2.Agrees) →
    validate dest = some d → validate source = some m →
    Notifies (.motMoveHomed p1 p2 dest source) s { id := 0x0444, dest := d, source := m, body := .fixed p1 p2 }
      fun t => s.ChangesNamed t m p1.toNat fun c => { c with life := if c.life = .homing then .homed else c.life }

/-- exec of MOT_MOVE_COMPLETED and MOT_MOVE_STOPPED completes for all field values: the frame is emitted on NOTIFY; the
channel that ChanIdent names gets the fields in status whatever its life is, and becomes Completed from Moving or
Jogging, respectively Stopped from Moving, Jogging or Homing; its other fields, every other channel and all else stay.
Derived from 44_channel_state.md, section 4 (R281, R282); 42_registry_dispatch.md, section 2 (R178);
45_message_catalogue.md (R342, R344). -/
def Obligations.CompletedAndStoppedReports : Prop :=
  ∀ (s : State) (dest source : Byte) (d m : ModuleAddress) (v position encCount statusBits : Nat),
    (∀ e ∈ s.pending, e.2.Agrees) → validate dest = some d → validate source = some m →
    v < 2 ^ 16 → position < 2 ^ 32 → encCount < 2 ^ 32 → statusBits < 2 ^ 32 →
    Notifies (.motMoveCompleted (dest ||| 0x80) source
        (bytesLe v 2 ++ bytesLe position 4 ++ bytesLe encCount 4 ++ bytesLe statusBits 4)) s
      { id := 0x0464, dest := d, source := m, body := .variableLen 14 (.record
        [(.chanIdent, .uint v), (.position, .uint position), (.encCount, .uint encCount), (.statusBits, .uint statusBits)]) }
      (fun t => s.ChangesNamed t m v fun c =>
        { c with status := some (.record
                   [(.chanIdent, .uint v), (.position, .uint position), (.encCount, .uint encCount), (.statusBits, .uint statusBits)]),
                 life := if c.life = .moving ∨ c.life = .jogging then .completed else c.life }) ∧
    Notifies (.motMoveStopped (dest ||| 0x80) source
        (bytesLe v 2 ++ bytesLe position 4 ++ bytesLe encCount 4 ++ bytesLe statusBits 4)) s
      { id := 0x0466, dest := d, source := m, body := .variableLen 14 (.record
        [(.chanIdent, .uint v), (.position, .uint position), (.encCount, .uint encCount), (.statusBits, .uint statusBits)]) }
      (fun t => s.ChangesNamed t m v fun c =>
        { c with status := some (.record
                   [(.chanIdent, .uint v), (.position, .uint position), (.encCount, .uint encCount), (.statusBits, .uint statusBits)]),
                 life := if c.life = .moving ∨ c.life = .jogging ∨ c.life = .homing then .stopped else c.life })

/-- exec of HW_DISCONNECT completes: the frame is emitted on NOTIFY; life and enable of every channel of the source module
become Unknown; the caches, the channels of other modules, the pending table and all else stay. Derived from
44_channel_state.md, section 4 (R283); 42_registry_dispatch.md, section 2 (R178); 45_message_catalogue.md (R306). -/
def Obligations.DisconnectReport : Prop :=
  ∀ (s : State) (p1 p2 dest source : Byte) (d m : ModuleAddress), (∀ e ∈ s.pending, e.2.Agrees) →
    ChanFile.wf s.chan → validate dest = some d → validate source = some m →
    Notifies (.hwDisconnect p1 p2 dest source) s { id := 0x0002, dest := d, source := m, body := .fixed p1 p2 }
      fun t => s.ChangesModule t m fun c => { c with life := .unknown, enable := .unknown }

/-- exec of HW_RESPONSE and HW_RICHRESPONSE completes: the frame is emitted on NOTIFY; every channel of the source module
that is Homing becomes Unknown; every other field and channel and all else stay. Derived from 44_channel_state.md,
section 4 (R284); 42_registry_dispatch.md, section 2 (R178); 45_message_catalogue.md (R307, R308). -/
def Obligations.ErrorReports : Prop :=
  ∀ (s : State) (p1 p2 dest source : Byte) (d m : ModuleAddress), (∀ e ∈ s.pending, e.2.Agrees) →
    ChanFile.wf s.chan → validate dest = some d → validate source = some m →
    Notifies (.hwResponse p1 p2 dest source) s { id := 0x0080, dest := d, source := m, body := .fixed p1 p2 }
      (fun t => s.ChangesModule t m fun c => { c with life := if c.life = .homing then .unknown else c.life }) ∧
    (∀ (msgIdent code : Nat) (notes : List Byte), msgIdent < 2 ^ 16 → code < 2 ^ 16 → notes.length = 64 →
      Notifies (.hwRichresponse (dest ||| 0x80) source
          (bytesLe msgIdent 2 ++ bytesLe code 2 ++ notes)) s
        { id := 0x0081, dest := d, source := m, body := .variableLen 68 (.record
          [(.msgIdent, .uint msgIdent), (.code, .uint code), (.notes, .bytes notes)]) }
        (fun t => s.ChangesModule t m fun c => { c with life := if c.life = .homing then .unknown else c.life }))

/-- For every instruction whose frame decodes and every state, exec completes, and either the frame is appended to notify
and no result is delivered, or notify stays and a Reply with the frame is the first result delivered. No frame is
swallowed or delivered twice. Derived from 60_exceptions.md, section 5 (R431); 42_registry_dispatch.md, section 2
(R176). -/
def Obligations.EveryFrameAnswersOrNotifies : Prop :=
  ∀ (i : Instr) (s : State) (f : Frame), i.check = .ok f →
    ∃ t, exec i s = .next t ∧
      ((t.notify = s.notify ++ [f] ∧ t.results = s.results) ∨
        (t.notify = s.notify ∧ ∃ tag more, t.results = s.results ++ (tag, .reply f) :: more ∧
          ∀ tag' f', (tag', .reply f') ∉ more))

/-- For every instruction, state with the pending table in its canonical form, and pending entry: if the decoded frame
comes from another module than the entry's destination or is of none of its response kinds, exec delivers no Reply for
that entry's tag. Derived from 42_registry_dispatch.md, section 2 (R177). -/
def Obligations.RepliesNeverCrossMatch : Prop :=
  ∀ (i : Instr) (s t : State) (f : Frame) (tag : Tag) (p : Pending), FMap.Rising id s.pending → i.check = .ok f →
    (tag, p) ∈ s.pending → (f.source ≠ p.dest ∨ f.id ∉ p.respIds) → exec i s = .next t →
    ∃ more, t.results = s.results ++ more ∧ ∀ g, (tag, .reply g) ∉ more

/-- For every instruction and state in which its frame (where it decodes) answers no pending entry, and for any two
subscription states: exec completes in both, and the next states differ in subs alone. Derived from
42_registry_dispatch.md, section 2 (R180); 43_transaction_engine.md, section 5 (R220). -/
def Obligations.SubscriptionDoesNotGateDispatch : Prop :=
  ∀ (i : Instr) (s : State) (subs : Vector Subscription 13), (∀ f, i.check = .ok f → s.Unsolicited f) →
    ∃ t, exec i s = .next t ∧ t.subs = s.subs ∧ exec i { s with subs := subs } = .next { t with subs := subs }

/-- For every configuration with the default catalogue, whatever its codes: processing identify, set_enable (on and off),
move_home, move_relative, move_absolute, move_jog, move_velocity (each direction) and move_stop (each mode) on an open
connection, with a channel in range that has a one-byte identifier, a legal destination other than the Host and a
write answered ok: exactly the six bytes of the kind are written, with the configuration's CHAN_IDENT, ENABLE_CODE,
DIR_CODE and STOP_CODE in them, the result is Ok, the named channel makes its transition (set_enable; motion only from
a life after Enabled; none for identify and move_stop), and nothing else changes. The identifiers of the kinds are
those of the default catalogue (the model's choice, log 1); the block of step takes for the codes R346's defaults,
0x01 and 0x02 (the model's choice, log 2). Derived from 43_transaction_engine.md, section 6 (R222, R223, R238 to
R243); 43_transaction_engine.md, section 2 (R202, R206); 44_channel_state.md, section 3 (R265 to R270);
45_message_catalogue.md, section 7 (R346); log 1; log 2. -/
def Obligations.FireCommandsSend : Prop :=
  ∀ (cfg : Cfg) (dest : Byte) (m : ModuleAddress) (ch : Channel) (v : Nat),
    cfg.catalogue = catalogue → validate dest = some m → m ≠ .host →
    cfg.chanIdent ch = some v → v < 2 ^ 8 → 1 ≤ ch → ch ≤ cfg.numChannels →
    let n := BitVec.ofNat 8 v
    Fires cfg (.identify ch dest) [0x23, 0x02, 0x00, 0x00, dest, 0x01]
      (fun s t => t.subs = s.subs ∧ s.ChangesChannel t m ch id) ∧
    Fires cfg (.setEnable ch dest true) [0x20, 0x02, n, cfg.enableCode true, dest, 0x01]
      (fun s t => t.subs = s.subs ∧ s.ChangesChannel t m ch fun c =>
        { c with enable := .known true,
                 life := if c.life = .unknown ∨ c.life = .disabled then .enabled else c.life }) ∧
    Fires cfg (.setEnable ch dest false) [0x20, 0x02, n, cfg.enableCode false, dest, 0x01]
      (fun s t => t.subs = s.subs ∧ s.ChangesChannel t m ch fun c =>
        { c with enable := .known false, life := .disabled }) ∧
    Fires cfg (.moveHome ch dest) [0x43, 0x04, n, 0x00, dest, 0x01]
      (fun s t => t.subs = s.subs ∧ s.ChangesChannel t m ch fun c =>
        { c with life := if c.life = .unknown ∨ c.life = .disabled then c.life else .homing }) ∧
    Fires cfg (.moveRelative ch dest) [0x48, 0x04, n, 0x00, dest, 0x01]
      (fun s t => t.subs = s.subs ∧ s.ChangesChannel t m ch fun c =>
        { c with life := if c.life = .unknown ∨ c.life = .disabled then c.life else .moving }) ∧
    Fires cfg (.moveAbsolute ch dest) [0x53, 0x04, n, 0x00, dest, 0x01]
      (fun s t => t.subs = s.subs ∧ s.ChangesChannel t m ch fun c =>
        { c with life := if c.life = .unknown ∨ c.life = .disabled then c.life else .moving }) ∧
    Fires cfg (.moveJog ch dest .forward) [0x6A, 0x04, n, cfg.dirCode .forward, dest, 0x01]
      (fun s t => t.subs = s.subs ∧ s.ChangesChannel t m ch fun c =>
        { c with life := if c.life = .unknown ∨ c.life = .disabled then c.life else .jogging }) ∧
    Fires cfg (.moveJog ch dest .reverse) [0x6A, 0x04, n, cfg.dirCode .reverse, dest, 0x01]
      (fun s t => t.subs = s.subs ∧ s.ChangesChannel t m ch fun c =>
        { c with life := if c.life = .unknown ∨ c.life = .disabled then c.life else .jogging }) ∧
    Fires cfg (.moveVelocity ch dest .forward) [0x57, 0x04, n, cfg.dirCode .forward, dest, 0x01]
      (fun s t => t.subs = s.subs ∧ s.ChangesChannel t m ch fun c =>
        { c with life := if c.life = .unknown ∨ c.life = .disabled then c.life else .moving }) ∧
    Fires cfg (.moveVelocity ch dest .reverse) [0x57, 0x04, n, cfg.dirCode .reverse, dest, 0x01]
      (fun s t => t.subs = s.subs ∧ s.ChangesChannel t m ch fun c =>
        { c with life := if c.life = .unknown ∨ c.life = .disabled then c.life else .moving }) ∧
    Fires cfg (.moveStop ch dest .immediate) [0x65, 0x04, n, cfg.stopCode .immediate, dest, 0x01]
      (fun s t => t.subs = s.subs ∧ s.ChangesChannel t m ch id) ∧
    Fires cfg (.moveStop ch dest .profiled) [0x65, 0x04, n, cfg.stopCode .profiled, dest, 0x01]
      (fun s t => t.subs = s.subs ∧ s.ChangesChannel t m ch id)

/-- For every configuration with the default catalogue: processing set_velparams, set_jogparams, set_homeparams,
set_limswitchparams, set_moverelparams and set_moveabsparams with all field values of the schema's widths, on an open
connection, with a channel in range that has a two-byte identifier, a legal destination other than the Host and a
write answered ok: exactly the header with bit 7 of the destination set, the 16-bit channel identifier and the fields
in order are written, the result is Ok, and nothing else changes (the cache is not written). The default catalogue is
the model's choice (log 1). Derived from 43_transaction_engine.md, section 6 (R225, R227, R229, R231, R233, R235);
20_memory.md, section 6 (R88); log 1. -/
def Obligations.SetParametersSend : Prop :=
  ∀ (cfg : Cfg) (dest : Byte) (m : ModuleAddress) (ch : Channel) (v : Nat),
    cfg.catalogue = catalogue → validate dest = some m → m ≠ .host →
    cfg.chanIdent ch = some v → v < 2 ^ 16 → 1 ≤ ch → ch ≤ cfg.numChannels →
    (∀ minVel accn maxVel : Nat, minVel < 2 ^ 32 → accn < 2 ^ 32 → maxVel < 2 ^ 32 →
      Fires cfg (.setVelparams ch dest (.record
          [(.minVel, .uint minVel), (.accn, .uint accn), (.maxVel, .uint maxVel)]))
        ([0x13, 0x04, 0x0E, 0x00, dest ||| 0x80, 0x01] ++ bytesLe v 2 ++ bytesLe minVel 4 ++ bytesLe accn 4 ++ bytesLe maxVel 4)
        (fun s t => t.subs = s.subs ∧ t.chan = s.chan)) ∧
    (∀ jogMode jogStepSize jogMinVel jogAccn jogMaxVel stopMode : Nat, jogMode < 2 ^ 16 → jogStepSize < 2 ^ 32 → jogMinVel < 2 ^ 32 → jogAccn < 2 ^ 32 → jogMaxVel < 2 ^ 32 → stopMode < 2 ^ 16 →
      Fires cfg (.setJogparams ch dest (.record
          [(.jogMode, .uint jogMode), (.jogStepSize, .uint jogStepSize), (.jogMinVel, .uint jogMinVel), (.jogAccn, .uint jogAccn), (.jogMaxVel, .uint jogMaxVel), (.stopMode, .uint stopMode)]))
        ([0x16, 0x04, 0x16, 0x00, dest ||| 0x80, 0x01] ++ bytesLe v 2 ++ bytesLe jogMode 2 ++ bytesLe jogStepSize 4 ++ bytesLe jogMinVel 4 ++ bytesLe jogAccn 4 ++ bytesLe jogMaxVel 4 ++ bytesLe stopMode 2)
        (fun s t => t.subs = s.subs ∧ t.chan = s.chan)) ∧
    (∀ homeDir limitSwitch homeVelocity offsetDistance : Nat, homeDir < 2 ^ 16 → limitSwitch < 2 ^ 16 → homeVelocity < 2 ^ 32 → offsetDistance < 2 ^ 32 →
      Fires cfg (.setHomeparams ch dest (.record
          [(.homeDir, .uint homeDir), (.limitSwitch, .uint limitSwitch), (.homeVelocity, .uint homeVelocity), (.offsetDistance, .uint offsetDistance)]))
        ([0x40, 0x04, 0x0E, 0x00, dest ||| 0x80, 0x01] ++ bytesLe v 2 ++ bytesLe homeDir 2 ++ bytesLe limitSwitch 2 ++ bytesLe homeVelocity 4 ++ bytesLe offsetDistance 4)
        (fun s t => t.subs = s.subs ∧ t.chan = s.chan)) ∧
    (∀ cwHardLimit ccwHardLimit cwSoftLimit ccwSoftLimit limitMode : Nat, cwHardLimit < 2 ^ 16 → ccwHardLimit < 2 ^ 16 → cwSoftLimit < 2 ^ 32 → ccwSoftLimit < 2 ^ 32 → limitMode < 2 ^ 16 →
      Fires cfg (.setLimswitchparams ch dest (.record
          [(.cwHardLimit, .uint cwHardLimit), (.ccwHardLimit, .uint ccwHardLimit), (.cwSoftLimit, .uint cwSoftLimit), (.ccwSoftLimit, .uint ccwSoftLimit), (.limitMode, .uint limitMode)]))
        ([0x23, 0x04, 0x10, 0x00, dest ||| 0x80, 0x01] ++ bytesLe v 2 ++ bytesLe cwHardLimit 2 ++ bytesLe ccwHardLimit 2 ++ bytesLe cwSoftLimit 4 ++ bytesLe ccwSoftLimit 4 ++ bytesLe limitMode 2)
        (fun s t => t.subs = s.subs ∧ t.chan = s.chan)) ∧
    (∀ relativeDistance : Nat, relativeDistance < 2 ^ 32 →
      Fires cfg (.setMoverelparams ch dest (.record
          [(.relativeDistance, .uint relativeDistance)]))
        ([0x45, 0x04, 0x06, 0x00, dest ||| 0x80, 0x01] ++ bytesLe v 2 ++ bytesLe relativeDistance 4)
        (fun s t => t.subs = s.subs ∧ t.chan = s.chan)) ∧
    (∀ absolutePosition : Nat, absolutePosition < 2 ^ 32 →
      Fires cfg (.setMoveabsparams ch dest (.record
          [(.absolutePosition, .uint absolutePosition)]))
        ([0x50, 0x04, 0x06, 0x00, dest ||| 0x80, 0x01] ++ bytesLe v 2 ++ bytesLe absolutePosition 4)
        (fun s t => t.subs = s.subs ∧ t.chan = s.chan))

/-- For every configuration with the default catalogue (the model's choice, log 1): processing start_updates or
stop_updates to a legal module other than the Host on an open connection with a write answered ok, from either
subscription state: the six bytes are written, the result is Ok, that module becomes Subscribed respectively
Unsubscribed, and every other module, the channel file and all else stay. Derived from 43_transaction_engine.md,
section 5 (R218 to R220); log 1. -/
def Obligations.SubscriptionMachine : Prop :=
  ∀ (cfg : Cfg) (dest : Byte) (m : ModuleAddress), cfg.catalogue = catalogue → validate dest = some m → m ≠ .host →
    Fires cfg (.startUpdates dest) [0x11, 0x00, 0x00, 0x00, dest, 0x01]
      (fun s t => t.chan = s.chan ∧ t.subOf m = .subscribed ∧ ∀ m', m' ≠ m → t.subOf m' = s.subOf m') ∧
    Fires cfg (.stopUpdates dest) [0x12, 0x00, 0x00, 0x00, dest, 0x01]
      (fun s t => t.chan = s.chan ∧ t.subOf m = .unsubscribed ∧ ∀ m', m' ≠ m → t.subOf m' = s.subOf m')

/-- For every configuration with the default catalogue (the model's choice, log 1): processing get_enable, the eight
parameter and ADC requests, req_hw_info, req_rack_bayused (bay 0 to 9) and req_hub_bayused on an open connection, with
a legal destination other than the Host, a channel in range that has a one-byte identifier, a timeout of at least 1, a
free key and a write answered ok: exactly the six bytes are written, an entry with the request's identifier, response
kind, destination, family, channel and the deadline now + timeout is opened under the tag, no result is delivered yet,
and nothing else changes. Derived from 43_transaction_engine.md, sections 2 and 6 (R208, R209, R224 to R237, R244 to
R246); log 1. -/
def Obligations.RequestsOpenEntries : Prop :=
  ∀ (cfg : Cfg) (dest : Byte) (m : ModuleAddress) (timeout : Option Ticks), cfg.catalogue = catalogue →
    validate dest = some m → m ≠ .host → 1 ≤ timeout.getD cfg.defaultTimeout →
    (∀ (ch : Channel) (v : Nat), cfg.chanIdent ch = some v → v < 2 ^ 8 → 1 ≤ ch → ch ≤ cfg.numChannels →
      let n := BitVec.ofNat 8 v
      Opens cfg (.getEnable ch dest timeout) [0x21, 0x02, n, 0x00, dest, 0x01] (fun now =>
        { reqId := 0x0221, respIds := [0x0212], dest := m, family := some .enable, channel := some ch,
          deadline := now + timeout.getD cfg.defaultTimeout, op := .getEnable ch dest timeout }) ∧
      Opens cfg (.getVelparams ch dest timeout) [0x14, 0x04, n, 0x00, dest, 0x01] (fun now =>
        { reqId := 0x0414, respIds := [0x0415], dest := m, family := some .vel, channel := some ch,
          deadline := now + timeout.getD cfg.defaultTimeout, op := .getVelparams ch dest timeout }) ∧
      Opens cfg (.getJogparams ch dest timeout) [0x17, 0x04, n, 0x00, dest, 0x01] (fun now =>
        { reqId := 0x0417, respIds := [0x0418], dest := m, family := some .jog, channel := some ch,
          deadline := now + timeout.getD cfg.defaultTimeout, op := .getJogparams ch dest timeout }) ∧
      Opens cfg (.getHomeparams ch dest timeout) [0x41, 0x04, n, 0x00, dest, 0x01] (fun now =>
        { reqId := 0x0441, respIds := [0x0442], dest := m, family := some .home, channel := some ch,
          deadline := now + timeout.getD cfg.defaultTimeout, op := .getHomeparams ch dest timeout }) ∧
      Opens cfg (.getLimswitchparams ch dest timeout) [0x24, 0x04, n, 0x00, dest, 0x01] (fun now =>
        { reqId := 0x0424, respIds := [0x0425], dest := m, family := some .lim, channel := some ch,
          deadline := now + timeout.getD cfg.defaultTimeout, op := .getLimswitchparams ch dest timeout }) ∧
      Opens cfg (.getMoverelparams ch dest timeout) [0x46, 0x04, n, 0x00, dest, 0x01] (fun now =>
        { reqId := 0x0446, respIds := [0x0447], dest := m, family := some .rel, channel := some ch,
          deadline := now + timeout.getD cfg.defaultTimeout, op := .getMoverelparams ch dest timeout }) ∧
      Opens cfg (.getMoveabsparams ch dest timeout) [0x51, 0x04, n, 0x00, dest, 0x01] (fun now =>
        { reqId := 0x0451, respIds := [0x0452], dest := m, family := some .abs, channel := some ch,
          deadline := now + timeout.getD cfg.defaultTimeout, op := .getMoveabsparams ch dest timeout }) ∧
      Opens cfg (.getAdc ch dest timeout) [0x2B, 0x04, n, 0x00, dest, 0x01] (fun now =>
        { reqId := 0x042B, respIds := [0x042C], dest := m, family := some .adc, channel := some ch,
          deadline := now + timeout.getD cfg.defaultTimeout, op := .getAdc ch dest timeout })) ∧
    Opens cfg (.reqHwInfo dest timeout) [0x05, 0x00, 0x00, 0x00, dest, 0x01] (fun now =>
      { reqId := 0x0005, respIds := [0x0006], dest := m, family := some .hwinfo, channel := none,
        deadline := now + timeout.getD cfg.defaultTimeout, op := .reqHwInfo dest timeout }) ∧
    (∀ bay : Byte, bay.toNat < 10 →
      Opens cfg (.reqRackBayused dest bay timeout) [0x60, 0x00, bay, 0x00, dest, 0x01] (fun now =>
        { reqId := 0x0060, respIds := [0x0061], dest := m, family := some .rackbay, channel := none,
          deadline := now + timeout.getD cfg.defaultTimeout, op := .reqRackBayused dest bay timeout })) ∧
    Opens cfg (.reqHubBayused dest timeout) [0x65, 0x00, 0x00, 0x00, dest, 0x01] (fun now =>
      { reqId := 0x0065, respIds := [0x0066], dest := m, family := some .hubbay, channel := none,
        deadline := now + timeout.getD cfg.defaultTimeout, op := .reqHubBayused dest timeout })

/-- Processing any command, open connection or not: an invalid destination, the Host as destination, then a channel out of
range or without an identifier, a bay of 10 or more, or a request timeout under 1 each end it with InvalidAddress
respectively SchemaViolation as its only effect beside leaving the queue; check_inputs itself answers the errors in
this order, and the validated destination when none fails; an invalid or self-addressed destination is delivered under
the code InvalidAddress, every schema violation under SchemaViolation. Formalises R203. -/
def Obligations.InputErrorsBeforeAnyIO : Prop :=
  (∀ (cfg : Cfg) (s : State) (tag : Tag) (c : Command) (rest : List (Tag × Op)) (e : OpError),
    s.cmdq = (tag, .command c) :: rest → checkInputs cfg (c.row cfg) = .error e →
    process cfg s = { s with cmdq := rest, results := s.results ++ [(tag, .err e.code)] }) ∧
  (∀ (cfg : Cfg) (r : CommandRow), validate r.dest = none → checkInputs cfg r = .error (.invalidAddress r.dest)) ∧
  (∀ (cfg : Cfg) (r : CommandRow), validate r.dest = some .host →
    checkInputs cfg r = .error (.selfAddressed r.dest)) ∧
  (∀ (cfg : Cfg) (r : CommandRow) (m : ModuleAddress), validate r.dest = some m → m ≠ .host →
    (∀ ch, r.ch = some ch → (ch < 1 ∨ cfg.numChannels < ch ∨ cfg.chanIdent ch = none) →
      checkInputs cfg r = .error (.schemaViolation (.channel ch))) ∧
    ((∀ ch, r.ch = some ch → 1 ≤ ch ∧ ch ≤ cfg.numChannels ∧ cfg.chanIdent ch ≠ none) →
      (∀ b, r.args = .bay b → 10 ≤ b.toNat → checkInputs cfg r = .error (.schemaViolation (.bay b))) ∧
      ((∀ b, r.args = .bay b → b.toNat < 10) →
        (∀ limit, r.cls = .request limit → limit.getD cfg.defaultTimeout < 1 →
          checkInputs cfg r = .error (.schemaViolation .timeout)) ∧
        ((∀ limit, r.cls = .request limit → 1 ≤ limit.getD cfg.defaultTimeout) → checkInputs cfg r = .ok m)))) ∧
  (∀ b : Byte, (OpError.invalidAddress b).code = .invalidAddress ∧ (OpError.selfAddressed b).code = .invalidAddress) ∧
  (∀ r : SchemaReason, (OpError.schemaViolation r).code = .schemaViolation)

/-- Processing any command that passes check_inputs on a closed connection appends Err(TransportError) for its tag and
changes nothing else but the queue. Formalises R204. -/
def Obligations.ClosedConnectionRefuses : Prop :=
  ∀ (cfg : Cfg) (s : State) (tag : Tag) (c : Command) (rest : List (Tag × Op)) (m : ModuleAddress),
    s.cmdq = (tag, .command c) :: rest → checkInputs cfg (c.row cfg) = .ok m → s.conn = .closed →
    process cfg s = { s with cmdq := rest, results := s.results ++ [(tag, .err .transportError)] }

/-- Under every configuration: the frame of an operation is encode of the kind of its name, from the Host, with the fields
of R202 (the params pair for a fixed kind; ChanIdent and the values, in schema order, for a variable kind whose
channel field is ChanIdent; the values alone for another variable kind); a kind that the catalogue lacks is
unregistered. Processing an operation that passes check_inputs on an open connection and that encode turns away, for
whatever reason, ends it with that error and changes nothing else but the queue; so do, with SchemaViolation, a kind
that the catalogue lacks and, in a well-formed catalogue, a channel identifier over 0xFF in the pair of a fixed kind,
byte-string values for a field schema, an opaque payload over 65535 bytes, and values that are not the fields of a
schema that begins with ChanIdent, name by name in order, or of which one does not fit its type. That an operation
sends the kind of its name, what it sends without values or without a channel, and that byte-string values go alone,
without ChanIdent, on an opaque kind whose channel field is ChanIdent, is for a catalogue other than the default the
model's choice (log 25). Derived from 43_transaction_engine.md, sections 2 and 6 (R202, R225); 60_exceptions.md,
section 3 (R418); 40_frame_codec.md, section 1 (R121); 30_encoding.md, section 4 (R96); log 25. -/
def Obligations.OperandErrorsBeforeAnyIO : Prop :=
  (∀ (cfg : Cfg) (c : Command) (k : Kind), named cfg.catalogue c.kindName = some k →
    (c.row cfg).kind = k ∧
    (c.row cfg).encoded cfg = encodeFrame cfg.catalogue k.id (c.row cfg).dest 0x01 ((c.row cfg).fields cfg) ∧
    (k.shape = .fixed →
      ((c.row cfg).args = .zero → (c.row cfg).fields cfg = .params [0, 0]) ∧
      (∀ ch v p2, (c.row cfg).args = .chan p2 → (c.row cfg).ch = some ch → cfg.chanIdent ch = some v →
        (c.row cfg).fields cfg = .params [v, p2.toNat]) ∧
      (∀ b, (c.row cfg).args = .bay b → (c.row cfg).fields cfg = .params [b.toNat, 0])) ∧
    (∀ ch v fs before after vs ws, k.shape = .variableLen → k.chanField = .field .chanIdent → k.schema = .fields fs →
      (c.row cfg).args = .values (.record (vs ++ ws)) → (c.row cfg).ch = some ch → cfg.chanIdent ch = some v →
      fs = before ++ (.chanIdent, .uint2) :: after → vs.length = before.length → (∀ f ∈ before, f.1 ≠ .chanIdent) →
      (c.row cfg).fields cfg = .values (.record (vs ++ (.chanIdent, .uint v) :: ws))) ∧
    (∀ vals, k.shape = .variableLen → k.chanField ≠ .field .chanIdent → (c.row cfg).args = .values vals →
      (c.row cfg).fields cfg = .values vals)) ∧
  (∀ (cfg : Cfg) (c : Command), named cfg.catalogue c.kindName = none →
    (c.row cfg).encoded cfg = .error (.schemaViolation (.unregisteredKind c.kindName.standard.id))) ∧
  (∀ (cfg : Cfg) (s : State) (tag : Tag) (c : Command) (rest : List (Tag × Op)) (m : ModuleAddress),
    s.cmdq = (tag, .command c) :: rest → checkInputs cfg (c.row cfg) = .ok m → s.conn = .opened →
    (∀ e, (c.row cfg).encoded cfg = .error e →
      process cfg s = { s with cmdq := rest, results := s.results ++ [(tag, .err e.code)] }) ∧
    (named cfg.catalogue c.kindName = none →
      process cfg s = { s with cmdq := rest, results := s.results ++ [(tag, .err .schemaViolation)] }) ∧
    (catalogueWf cfg.catalogue = true →
      (∀ ch v p2, (c.row cfg).kind.shape = .fixed → (c.row cfg).args = .chan p2 → (c.row cfg).ch = some ch →
        cfg.chanIdent ch = some v → 0xFF < v →
        process cfg s = { s with cmdq := rest, results := s.results ++ [(tag, .err .schemaViolation)] }) ∧
      (∀ fs bs, (c.row cfg).kind.schema = .fields fs → (c.row cfg).args = .values (.raw bs) →
        process cfg s = { s with cmdq := rest, results := s.results ++ [(tag, .err .schemaViolation)] }) ∧
      (∀ bs : List Byte, (c.row cfg).kind.schema = .opaqueBytes → (c.row cfg).args = .values (.raw bs) →
        65535 < bs.length →
        process cfg s = { s with cmdq := rest, results := s.results ++ [(tag, .err .schemaViolation)] }) ∧
      (∀ fs vs, (c.row cfg).args = .values (.record vs) → (c.row cfg).kind.chanField = .field .chanIdent →
        (c.row cfg).kind.schema = .fields ((.chanIdent, .uint2) :: fs) →
        (vs.map Prod.fst ≠ fs.map Prod.fst ∨ ∃ e ∈ fs.zip vs, e.1.2.fits e.2.2 = false) →
        process cfg s = { s with cmdq := rest, results := s.results ++ [(tag, .err .schemaViolation)] })))

/-- Processing a request that passes its checks on an open connection: with an entry of its (destination, family) key
pending it ends Err(Busy) under FailFast, and under Wait is appended, with its encoded frame, to the deferred requests
of that key, other keys unchanged; with no such entry and a write answered ok it is written and its entry opened.
Nothing else changes in each case. Formalises R207. -/
def Obligations.BusyKeyRule : Prop :=
  ∀ (cfg : Cfg) (s : State) (tag : Tag) (c : Command) (rest : List (Tag × Op)) (key : BusyKey) (bytes : List Byte),
    s.cmdq = (tag, .command c) :: rest → checkInputs cfg (c.row cfg) = .ok key.dest → s.conn = .opened →
    (c.row cfg).encoded cfg = .ok bytes →
    (c.row cfg).requestKey key.dest = some key →
    ((∃ e ∈ s.pending, e.2.key = key) → cfg.busyPolicy = .failFast →
      process cfg s = { s with cmdq := rest, results := s.results ++ [(tag, .err .busy)] }) ∧
    ((∃ e ∈ s.pending, e.2.key = key) → cfg.busyPolicy = .wait →
      ∃ t, process cfg s = t ∧ t = { s with cmdq := rest, waitq := t.waitq } ∧
        (FMap.Rising BusyKey.rank s.waitq → FMap.Rising BusyKey.rank t.waitq) ∧
        t.waiting key = s.waiting key ++ [⟨tag, c, bytes⟩] ∧
        ∀ key', key' ≠ key → t.waiting key' = s.waiting key') ∧
    ((∀ e ∈ s.pending, e.2.key ≠ key) → s.nextAnswer = .ok →
      ∃ t, process cfg s = t ∧
        t = { s.answered with cmdq := rest, txlog := s.txlog ++ [(bytes, .ok)], pending := t.pending } ∧
        FMap.get? t.pending tag =
          some { reqId := (c.row cfg).kind.id, respIds := (c.row cfg).kind.responses, dest := key.dest, family := key.family,
                 channel := (c.row cfg).ch, deadline := s.now + (c.row cfg).timeout cfg, op := c } ∧
        (FMap.Rising id s.pending → FMap.Rising id t.pending) ∧
        ∀ tag', tag' ≠ tag → FMap.get? t.pending tag' = FMap.get? s.pending tag')

/-- send records the frame with the transport's answer; answered ok it does nothing else; answered error it closes the
connection with reason write_error in the same step. A command whose write is answered error (a fire-and-forget one,
or a request whose key is free) has that as its effect, then Err(TransportError) for its tag. Formalises R205. -/
def Obligations.WriteErrorCloses : Prop :=
  (∀ (s : State) (bytes : List Byte), s.nextAnswer = .ok →
    send bytes s = (.ok, { s.answered with txlog := s.txlog ++ [(bytes, .ok)] })) ∧
  (∀ (s : State) (bytes : List Byte), ChanFile.wf s.chan → s.nextAnswer = .error →
    ∃ t, send bytes s = (.error, t) ∧
      State.ClosedTo { s.answered with txlog := s.txlog ++ [(bytes, .error)] } t .writeError) ∧
  (∀ (cfg : Cfg) (s : State) (tag : Tag) (c : Command) (rest : List (Tag × Op)) (m : ModuleAddress)
    (bytes : List Byte), ChanFile.wf s.chan → s.cmdq = (tag, .command c) :: rest →
    checkInputs cfg (c.row cfg) = .ok m → s.conn = .opened →
    (c.row cfg).encoded cfg = .ok bytes →
    (∀ key, (c.row cfg).requestKey m = some key → ∀ e ∈ s.pending, e.2.key ≠ key) → s.nextAnswer = .error →
    ∃ t, State.ClosedTo { s.answered with cmdq := rest, txlog := s.txlog ++ [(bytes, .error)] } t .writeError ∧
      process cfg s = { t with results := t.results ++ [(tag, .err .transportError)] })

/-- Processing cancel(target): a pending target is removed and ends Err(Cancelled), and where nothing is deferred on its
key nothing is sent (else the oldest deferred request is issued as at any completion); a deferred target is removed
from its key's list and ends Err(Cancelled); any other target changes nothing; the cancel itself ends Ok after that,
on an open or a closed connection. Formalises R213. -/
def Obligations.CancelRule : Prop :=
  ∀ (cfg : Cfg) (s : State) (tag target : Tag) (rest : List (Tag × Op)),
    s.cmdq = (tag, .cancel target) :: rest →
    (∀ p, FMap.get? s.pending target = some p → s.waiting p.key = [] →
      process cfg s =
        { s with cmdq := rest, pending := s.pending.filter (fun e => decide (e.1 ≠ target)),
                 results := s.results ++ [(target, .err .cancelled), (tag, .ok)] }) ∧
    (∀ p, FMap.get? s.pending target = some p →
      process cfg s =
        (finish cfg target p (.err .cancelled) { s with cmdq := rest }).pushResult tag .ok) ∧
    (FMap.get? s.pending target = none → target ∈ waitTags s.waitq → FMap.Rising BusyKey.rank s.waitq →
      ∃ t, process cfg s = t ∧
        t = { s with cmdq := rest, waitq := t.waitq,
                     results := s.results ++ [(target, .err .cancelled), (tag, .ok)] } ∧
        FMap.Rising BusyKey.rank t.waitq ∧
        ∀ key, t.waiting key = (s.waiting key).filter fun d => decide (d.tag ≠ target)) ∧
    (FMap.get? s.pending target = none → target ∉ waitTags s.waitq →
      process cfg s = { s with cmdq := rest, results := s.results ++ [(tag, .ok)] })

/-- An Expire step for a pending tag whose deadline has been reached removes the entry and delivers Err(Timeout), and
where nothing is deferred on its key changes nothing else. Below the deadline, and for a tag that is not pending, the
event is not enabled: the model then changes nothing (its own choice, log 5). Derived from 43_transaction_engine.md,
section 3 (R210, R211); log 5. -/
def Obligations.ExpireRule : Prop :=
  (∀ (s : State) (tag : Tag) (p : Pending), FMap.get? s.pending tag = some p → p.deadline ≤ s.now →
    s.waiting p.key = [] →
    step (s.offer (.expire tag)) =
      .next { s with pending := s.pending.filter (fun e => decide (e.1 ≠ tag)),
                     results := s.results ++ [(tag, .err .timeout)] }) ∧
  (∀ (s : State) (tag : Tag) (p : Pending), FMap.get? s.pending tag = some p → p.deadline ≤ s.now →
    step (s.offer (.expire tag)) = .next (finish Config.cfg tag p (.err .timeout) s)) ∧
  (∀ (s : State) (tag : Tag), (∀ p, FMap.get? s.pending tag = some p → s.now < p.deadline) →
    step (s.offer (.expire tag)) = .next s)

/-- When an entry ends with any outcome on an open connection and requests are deferred on its key: the outcome is
delivered first; the oldest deferred request is taken from the list and written; with the write answered ok its entry
is opened with a deadline counted from now; with the write answered error the connection closes and that request ends
Err(TransportError). Other tags and keys stay. Derived from 43_transaction_engine.md, section 3 (R211, R212, R209);
60_exceptions.md, section 4 (R424). -/
def Obligations.CompletionIssuesNext : Prop :=
  ∀ (cfg : Cfg) (s : State) (tag : Tag) (p : Pending) (o : OpOutcome) (d : Deferred) (rest : List Deferred),
    s.conn = .opened → s.waiting p.key = d :: rest →
    (s.nextAnswer = .ok →
      ∃ t, finish cfg tag p o s = t ∧
        t = { s.answered with pending := t.pending, waitq := waitSet s.waitq p.key rest,
                              txlog := s.txlog ++ [(d.bytes, .ok)], results := s.results ++ [(tag, o)] } ∧
        (FMap.Rising id s.pending → FMap.Rising id t.pending) ∧
        FMap.get? t.pending d.tag =
          some { reqId := (d.op.row cfg).kind.id, respIds := (d.op.row cfg).kind.responses, dest := p.dest, family := p.family,
                 channel := (d.op.row cfg).ch, deadline := s.now + (d.op.row cfg).timeout cfg, op := d.op } ∧
        (tag ≠ d.tag → FMap.get? t.pending tag = none) ∧
        (∀ tag', tag' ≠ tag → tag' ≠ d.tag → FMap.get? t.pending tag' = FMap.get? s.pending tag') ∧
        t.waiting p.key = rest ∧ ∀ key, key ≠ p.key → t.waiting key = s.waiting key) ∧
    (s.nextAnswer = .error → ChanFile.wf s.chan →
      ∃ t, finish cfg tag p o s = { t with results := t.results ++ [(d.tag, .err .transportError)] } ∧
        State.ClosedTo
          { s.answered with pending := s.pending.filter (fun e => decide (e.1 ≠ tag)),
                            waitq := waitSet s.waitq p.key rest,
                            txlog := s.txlog ++ [(d.bytes, .error)], results := s.results ++ [(tag, o)] }
          t .writeError) ∧
    ((FMap.get? (waitSet s.waitq p.key rest) p.key).getD [] = rest) ∧
    (∀ key, key ≠ p.key → (FMap.get? (waitSet s.waitq p.key rest) key).getD [] = s.waiting key) ∧
    (FMap.Rising BusyKey.rank s.waitq → FMap.Rising BusyKey.rank (waitSet s.waitq p.key rest))

/-- A Close step on an open connection closes it, reports and discards the bytes left in rx, delivers Err(Disconnected) to
every pending and deferred tag in increasing order, each once, empties both tables, unsubscribes every module, makes
every channel's life and enable Unknown with the caches kept, and emits TransportError(stream_closed); the queue and
all else stay. do_close does the same with the reason it is given. Formalises R217. -/
def Obligations.CloseStep : Prop :=
  (∀ s : State, s.conn = .opened → ChanFile.wf s.chan →
    ∃ t, step (s.offer .close) = .next t ∧ s.ClosedTo t .streamClosed) ∧
  (∀ (s : State) (reason : CloseReason), ChanFile.wf s.chan → s.ClosedTo (doClose reason s) reason)

/-- A Reconnect step on a closed connection with an empty queue gives the reset state (the model's environment field goes
on: its own choice, log 7); otherwise the event is not enabled and the model changes nothing (log 5). Derived from
70_reset_and_hazards.md, section 1 (R452, R453); log 5; log 7. -/
def Obligations.ReconnectResets : Prop :=
  (∀ s : State, s.conn = .closed → s.cmdq = [] →
    step (s.offer .reconnect) = .next { State.reset with env := s.env }) ∧
  (∀ s : State, (s.conn = .opened ∨ s.cmdq ≠ []) → step (s.offer .reconnect) = .next s)

/-- An Accept step, in every state, appends the operation to the queue under nextTag and adds 1 to nextTag; nothing else
changes. Derived from 10_state.md, section 3 (R37, R38). -/
def Obligations.AcceptQueues : Prop :=
  ∀ (s : State) (op : Op),
    step (s.offer (.accept op)) = .next { s with cmdq := s.cmdq ++ [(s.nextTag, op)], nextTag := s.nextTag + 1 }

/-- A Tick step with t at least now sets now to t and changes nothing else; a smaller t is no event of the block: the
model changes nothing (its own choice, log 5). Derived from 10_state.md, section 6 (R45); log 5. -/
def Obligations.TickSetsTime : Prop :=
  (∀ (s : State) (t : Ticks), s.now ≤ t → step (s.offer (.tick t)) = .next { s with now := t }) ∧
  (∀ (s : State) (t : Ticks), t < s.now → step (s.offer (.tick t)) = .next s)

/-- For every state: an invalid module byte answers InvalidAddress; then a channel out of range answers SchemaViolation;
else the answer is the channel's entry of the channel file. It is a function of the state, no step, so it has no side
effect; after reset the answer is ChannelState.init. Formalises R261. -/
def Obligations.SnapshotReads : Prop :=
  ∀ (cfg : Cfg) (m : Byte) (ch : Channel) (s : State),
    (validate m = none → getSnapshot cfg m ch s = .error (.invalidAddress m)) ∧
    (∀ a, validate m = some a → (ch < 1 ∨ cfg.numChannels < ch) →
      getSnapshot cfg m ch s = .error (.schemaViolation (.channel ch))) ∧
    (∀ a, validate m = some a → 1 ≤ ch → ch ≤ cfg.numChannels →
      getSnapshot cfg m ch s = .ok (s.chanOf a ch) ∧
        getSnapshot cfg m ch State.reset = .ok ChannelState.init)

/-- At reset the connection is open, rx, cmdq and the four histories are empty, nextTag and now are 0, nothing is pending
or deferred, every module is Unsubscribed and every channel is at ChannelState.init; construction with any
configuration whose catalogue is well formed, and a Reconnect step on a closed connection with an empty queue, put
every field of the block in this value. Formalises R450. -/
def Obligations.ResetState : Prop :=
  State.reset.conn = .opened ∧ State.reset.rx = [] ∧ State.reset.cmdq = [] ∧ State.reset.nextTag = 0 ∧
  State.reset.pending = [] ∧ State.reset.waitq = [] ∧ (∀ m, State.reset.subOf m = .unsubscribed) ∧
  (∀ m ch, State.reset.chanOf m ch =
    { life := .unknown, enable := .unknown, vel := none, jog := none, home := none, lim := none, rel := none,
      abs := none, adc := none, status := none }) ∧
  State.reset.now = 0 ∧ State.reset.txlog = [] ∧ State.reset.results = [] ∧ State.reset.notify = [] ∧
  State.reset.events = [] ∧
  (∀ cfg : Cfg, catalogueWf cfg.catalogue = true → construct cfg = some ⟨cfg, State.reset⟩) ∧
  (∀ s : State, s.conn = .closed → s.cmdq = [] →
    ∃ env, step (s.offer .reconnect) = .next { State.reset with env := env })

/-- State.Inv and State.Safe hold of the reset state with any environment part. Derived from 70_reset_and_hazards.md,
section 1 (R450). -/
def Obligations.ResetMeetsInvariant : Prop :=
  ∀ env : Env, (State.reset.setEnv env).Inv ∧ (State.reset.setEnv env).Safe

/-- From every state that meets State.Inv, reached or not, every step gives a state that meets it: the maps keep their
canonical form, at most one entry is pending per key, requests are deferred only behind a pending one and never under
FailFast, entries agree with their operations, every accepted tag is in exactly one place, and a closed connection
holds nothing in flight. Derived from 10_state.md, section 4 (R41, R42); 43_transaction_engine.md, sections 2 to 4;
log 11. -/
def Obligations.StepKeepsInvariant : Prop :=
  ∀ s t : State, s.Inv → step s = .next t → t.Inv

/-- From every state that meets State.Safe, reached or not, every step gives a state that meets it: the invariant holds,
and every byte sequence of txlog decodes to a frame whose source is the Host and whose destination is another module.
Derived from 41_address_resolver.md, section 1 (R156); 30_encoding.md, section 4 (R96); 10_state.md, section 7 (R50);
43_transaction_engine.md, section 2 (R202, R207). -/
def Obligations.StepKeepsSafe : Prop :=
  ∀ s t : State, s.Safe → step s = .next t → t.Safe

/-- For every state that a run reaches from reset, whatever the environment does, any two pending entries with the same
destination and the same family are the same entry. Formalises R41. -/
def Obligations.ReachableStatesHaveOnePendingPerKey : Prop :=
  ∀ s : State, Reachable s → ∀ e ∈ s.pending, ∀ e' ∈ s.pending,
    e.2.dest = e'.2.dest → e.2.family = e'.2.family → e = e'

/-- In every reachable state, every tag given since the last reset is in exactly one of the queue, the pending table, the
deferred requests and the delivered outcomes, and occurs there once; no other tag occurs anywhere. Derived from
10_state.md, section 7 (R51); 70_reset_and_hazards.md, section 3 (R467). -/
def Obligations.ReachableTagsHaveOneOutcome : Prop :=
  ∀ s : State, Reachable s → ∀ t : Tag,
    (s.cmdq.map Prod.fst).count t + (s.pending.map Prod.fst).count t + (waitTags s.waitq).count t +
      (s.results.map Prod.fst).count t = if t < s.nextTag then 1 else 0

/-- In every reachable state, every byte sequence of txlog decodes to a frame whose source is the Host and whose
destination is another module, and is the encoding of a message of the catalogue from the Host: no frame with an
invalid address reaches the transport. Derived from 41_address_resolver.md, section 1 (R156); 30_encoding.md, section
4 (R96); 40_frame_codec.md, section 1. -/
def Obligations.ReachableFramesAreLegal : Prop :=
  ∀ s : State, Reachable s → ∀ e ∈ s.txlog, WireFrame e.1 ∧
    ∃ id dest fields, encodeFrame catalogue id dest hostAddr fields = .ok e.1

/-- For every step: either the four histories are extended at their ends, now and nextTag do not decrease; or the step was
a Reconnect from a closed connection and the state is the reset state. Derived from 10_state.md, sections 3, 6 and 7
(R38, R45, R50); 70_reset_and_hazards.md, section 1 (R452, R453). -/
def Obligations.HistoriesAndTimeOnlyGrow : Prop :=
  ∀ s t : State, step s = .next t →
    (s.txlog <+: t.txlog ∧ s.results <+: t.results ∧ s.notify <+: t.notify ∧ s.events <+: t.events ∧
      s.now ≤ t.now ∧ s.nextTag ≤ t.nextTag) ∨
    (s.env.drawEvent.1 = .reconnect ∧ s.conn = .closed ∧ s.cmdq = [] ∧ t = { State.reset with env := t.env })

/-- For every step, at most one entry is added to txlog; a step by Accept, Receive, Tick or Close adds none, and a
Reconnect step adds none: it leaves txlog or empties it. Derived from 20_memory.md, section 3 (R77);
43_transaction_engine.md, section 3 (R215, R216). -/
def Obligations.OneWritePerStep : Prop :=
  (∀ s t : State, step s = .next t → t.txlog.length ≤ s.txlog.length + 1) ∧
  (∀ (s t : State) (e : Event), ((∃ op, e = .accept op) ∨ (∃ bs, e = .receive bs) ∨ (∃ n, e = .tick n) ∨ e = .close) →
    step (s.offer e) = .next t → t.txlog = s.txlog) ∧
  (∀ s t : State, step (s.offer .reconnect) = .next t → t.txlog = s.txlog ∨ t.txlog = [])

/-- For every state with the channel file in its canonical form and every step: the life of every channel stays, becomes
Unknown or Disabled, becomes Enabled from Unknown or Disabled only, enters Homing, Moving or Jogging only from a state
after Enabled, becomes Homed only from Homing, Completed only from Moving or Jogging, and Stopped only from Moving,
Jogging or Homing. Derived from 44_channel_state.md, section 2 (R263, R264). -/
def Obligations.LifeFollowsStateMachine : Prop :=
  ∀ s t : State, ChanFile.wf s.chan → step s = .next t →
    ∀ m ch, (s.chanOf m ch).life.Moves (t.chanOf m ch).life

/-- For every state with the channel file in its canonical form: a step by any event but Deframe and Reconnect leaves the
eight caches of every channel as they were, so that no operation, timeout, cancellation or close writes one. Derived
from 20_memory.md, section 6 (R88); 44_channel_state.md, section 1 (R262). -/
def Obligations.CachesWrittenByReportsOnly : Prop :=
  ∀ (s t : State) (e : Event), ChanFile.wf s.chan → e ≠ .deframe → e ≠ .reconnect → step (s.offer e) = .next t →
    ∀ m ch, (s.chanOf m ch).SameCaches (t.chanOf m ch)

/-- No step faults or refuses, and no instruction does, in any state: the block has no halted state and no error stops it.
That an event which is not enabled is a step that changes nothing is the model's choice (log 5), and that nothing
stops the block is read from R467 by inference (log 19). Derived from 70_reset_and_hazards.md, section 3 (R467);
60_exceptions.md, section 4 (R423); log 5; log 19. -/
def Obligations.EveryStepCompletes : Prop :=
  (∀ s : State, ∃ t, step s = .next t) ∧ ∀ (i : Instr) (s : State), ∃ t, exec i s = .next t
end

