-- ==== Sys2Proof/Laws/Codec.lean ====
section
/-! SUPPORT. The laws of byte order, of the module-address map and of the frame header. -/

namespace Sys2Proof

/-! ### Byte order -/

@[simp] theorem bytesLe_zero (v : Nat) : bytesLe v 0 = [] := rfl

theorem bytesLe_succ (v n : Nat) : bytesLe v (n + 1) = BitVec.ofNat 8 v :: bytesLe (v / 256) n := rfl

@[simp] theorem length_bytesLe (v n : Nat) : (bytesLe v n).length = n := by
  induction n generalizing v with
  | zero => rfl
  | succ n ih => simp [bytesLe_succ, ih]

@[simp] theorem fromLe_nil : fromLe [] = 0 := rfl

theorem fromLe_cons (b : Byte) (bs : List Byte) : fromLe (b :: bs) = b.toNat + 256 * fromLe bs := rfl

theorem fromLe_lt (bs : List Byte) : fromLe bs < 256 ^ bs.length := by
  induction bs with
  | nil => simp
  | cons b bs ih =>
    have := b.isLt
    simp only [fromLe_cons, List.length_cons, Nat.pow_succ]
    omega

/-- Writing a number that fits and reading it back. -/
theorem fromLe_bytesLe {v n : Nat} (h : v < 256 ^ n) : fromLe (bytesLe v n) = v := by
  induction n generalizing v with
  | zero => simp at h ⊢; omega
  | succ n ih =>
    have hd : v / 256 < 256 ^ n := Nat.div_lt_of_lt_mul (by rw [Nat.pow_succ] at h; omega)
    simp only [bytesLe_succ, fromLe_cons, ih hd, BitVec.toNat_ofNat]
    omega

theorem fromLe_bytesLe_two {v : Nat} (h : v < 2 ^ 16) : fromLe (bytesLe v 2) = v := fromLe_bytesLe h

theorem fromLe_bytesLe_four {v : Nat} (h : v < 2 ^ 32) : fromLe (bytesLe v 4) = v := fromLe_bytesLe h

/-- Reading bytes as a number and writing them back. -/
theorem bytesLe_fromLe (bs : List Byte) : bytesLe (fromLe bs) bs.length = bs := by
  induction bs with
  | nil => rfl
  | cons b bs ih =>
    have hb := b.isLt
    have h1 : (b.toNat + 256 * fromLe bs) / 256 = fromLe bs := by omega
    simp only [fromLe_cons, List.length_cons, bytesLe_succ, h1, ih, List.cons.injEq, and_true]
    apply BitVec.eq_of_toNat_eq
    simp only [BitVec.toNat_ofNat]
    omega

theorem bytesLe_two (v : Nat) : bytesLe v 2 = [BitVec.ofNat 8 v, BitVec.ofNat 8 (v / 256)] := rfl

theorem toNat_le16 (b0 b1 : Byte) : (le16 b0 b1).toNat = b0.toNat + 256 * b1.toNat := by
  have := b0.isLt
  have := b1.isLt
  simp only [le16, BitVec.toNat_ofNat]
  omega

/-- The two bytes of a length or an identifier give it back. -/
theorem le16_ofNat {v : Nat} (h : v < 65536) : le16 (BitVec.ofNat 8 v) (BitVec.ofNat 8 (v / 256)) = BitVec.ofNat 16 v := by
  apply BitVec.eq_of_toNat_eq
  simp only [toNat_le16, BitVec.toNat_ofNat]
  omega

@[simp] theorem le16_toNat (id : MsgId) : le16 (BitVec.ofNat 8 id.toNat) (BitVec.ofNat 8 (id.toNat / 256)) = id := by
  rw [le16_ofNat id.isLt]
  simp

/-- The bytes that a length or an identifier was read from. -/
theorem bytesLe_le16 (b0 b1 : Byte) : bytesLe (le16 b0 b1).toNat 2 = [b0, b1] := by
  rw [toNat_le16]
  have := bytesLe_fromLe [b0, b1]
  simpa [fromLe_cons] using this

/-! ### The module-address map -/

theorem validate_code (a : ModuleAddress) : validate a.code = some a := by
  cases a with
  | bay n => revert n; decide
  | _ => decide

theorem eq_code_of_validate {b : Byte} {a : ModuleAddress} (h : validate b = some a) : b = a.code := by
  have key : ∀ b : Byte, ∀ a ∈ validate b, b = a.code := by decide
  exact key b a h

theorem validate_eq_some_iff {b : Byte} {a : ModuleAddress} : validate b = some a ↔ b = a.code :=
  ⟨eq_code_of_validate, fun h => h ▸ validate_code a⟩

theorem code_injective {a b : ModuleAddress} (h : a.code = b.code) : a = b :=
  Option.some.inj ((validate_code a).symm.trans (h ▸ validate_code b))

@[simp] theorem msb_code (a : ModuleAddress) : a.code.msb = false := by
  cases a with
  | bay n => revert n; decide
  | _ => decide

@[simp] theorem msb_code_or (a : ModuleAddress) : (a.code ||| 0x80).msb = true := by
  cases a with
  | bay n => revert n; decide
  | _ => decide

@[simp] theorem stripDest_code (a : ModuleAddress) : stripDest a.code = some (a, .fixed) := by
  cases a with
  | bay n => revert n; decide
  | _ => decide

@[simp] theorem stripDest_code_or (a : ModuleAddress) : stripDest (a.code ||| 0x80) = some (a, .variableLen) := by
  cases a with
  | bay n => revert n; decide
  | _ => decide

@[simp] theorem code_ne_host (a : ModuleAddress) : (a.code = 0x01) ↔ a = .host := by
  cases a with
  | bay n => revert n; decide
  | _ => decide

/-- A legal destination byte of a fixed kind and a legal source byte. -/
theorem readAddresses_fixed {k : Kind} (hk : k.shape = .fixed) {dest source : Byte} {d s : ModuleAddress}
    (hd : validate dest = some d) (hs : validate source = some s) : readAddresses k dest source = .ok (d, s) := by
  rw [validate_eq_some_iff] at hd
  subst hd
  have : (Shape.fixed == Shape.variableLen) = false := rfl
  simp [readAddresses, hk, hs, this]

/-- A legal destination byte of a variable kind and a legal source byte. -/
theorem readAddresses_variable {k : Kind} (hk : k.shape = .variableLen) {dest source : Byte} {d s : ModuleAddress}
    (hd : validate dest = some d) (hs : validate source = some s) :
    readAddresses k (dest ||| 0x80) source = .ok (d, s) := by
  rw [validate_eq_some_iff] at hd
  subst hd
  have h : ¬(true ≠ (Shape.variableLen == Shape.variableLen)) := by decide
  simp only [readAddresses, hk, msb_code_or, if_neg h, stripDest_code_or, hs]

/-- The frame of a legal fixed frame. -/
theorem checkRaw_fixed {k : Kind} (hk : k.shape = .fixed) {p1 p2 dest source : Byte} {d s : ModuleAddress}
    (hd : validate dest = some d) (hs : validate source = some s) :
    checkRaw k (.fixed p1 p2 dest source) = .ok { id := k.id, dest := d, source := s, body := .fixed p1 p2 } := by
  simp [checkRaw, readAddresses_fixed hk hd hs]

/-- The frame of a legal variable frame. -/
theorem checkRaw_variable {k : Kind} (hk : k.shape = .variableLen) {dest source : Byte} {d s : ModuleAddress}
    {payload : List Byte} (hw : widthError k payload.length = none) (hd : validate dest = some d)
    (hs : validate source = some s) :
    checkRaw k (.variableLen (dest ||| 0x80) source payload) =
      .ok { id := k.id, dest := d, source := s,
            body := .variableLen (BitVec.ofNat 16 payload.length) (readPayload k.schema payload) } := by
  simp only [checkRaw, readAddresses_variable hk hd hs, hw]

/-- A payload of its schema's width passes the width check. -/
theorem widthError_eq_none {k : Kind} {fs : List (FieldName × FieldType)} (hk : k.schema = .fields fs) {n : Nat}
    (h : n = schemaWidth fs) : widthError k n = none := by
  simp [widthError, hk, h]

/-! ### Payloads -/

theorem readFields_cons (name : FieldName) (ty : FieldType) (fs : List (FieldName × FieldType)) (a bs : List Byte)
    (h : a.length = ty.width) :
    readFields ((name, ty) :: fs) (a ++ bs) = (name, ty.read a) :: readFields fs bs := by
  simp [readFields, ← h]

theorem readFields_uint2 (name : FieldName) (fs : List (FieldName × FieldType)) {v : Nat} (h : v < 2 ^ 16)
    (bs : List Byte) : readFields ((name, .uint2) :: fs) (bytesLe v 2 ++ bs) = (name, .uint v) :: readFields fs bs := by
  rw [readFields_cons _ _ _ _ _ (length_bytesLe v 2)]
  simp only [FieldType.read, fromLe_bytesLe_two h]

theorem readFields_uint4 (name : FieldName) (fs : List (FieldName × FieldType)) {v : Nat} (h : v < 2 ^ 32)
    (bs : List Byte) : readFields ((name, .uint4) :: fs) (bytesLe v 4 ++ bs) = (name, .uint v) :: readFields fs bs := by
  rw [readFields_cons _ _ _ _ _ (length_bytesLe v 4)]
  simp only [FieldType.read, fromLe_bytesLe_four h]

theorem readFields_bytes (name : FieldName) (fs : List (FieldName × FieldType)) {n : Nat} {a : List Byte}
    (h : a.length = n) (bs : List Byte) :
    readFields ((name, .bytes n) :: fs) (a ++ bs) = (name, .bytes a) :: readFields fs bs := by
  rw [readFields_cons _ _ _ _ _ h]
  simp only [FieldType.read]

@[simp] theorem readFields_nil (bs : List Byte) : readFields [] bs = [] := rfl

/-- A value that fits a field's type is written in the field's width and read back as itself. -/
theorem length_ser {ty : FieldType} {v : FieldValue} (h : ty.fits v = true) : (ty.ser v).length = ty.width := by
  cases ty <;> cases v <;> simp_all [FieldType.fits, FieldType.ser, FieldType.width]

theorem read_ser {ty : FieldType} {v : FieldValue} (h : ty.fits v = true) : ty.read (ty.ser v) = v := by
  cases ty <;> cases v <;>
    simp_all [FieldType.fits, FieldType.ser, FieldType.read, FieldType.width, fromLe_bytesLe]

theorem ser_read {ty : FieldType} {bs : List Byte} (h : bs.length = ty.width) : ty.ser (ty.read bs) = bs := by
  cases ty <;> simp_all [FieldType.ser, FieldType.read, FieldType.width] <;> rw [← h, bytesLe_fromLe]

/-- Serialised fields read back as themselves. -/
theorem readFields_serFields (fs : List (FieldName × FieldType)) (vs : List (FieldName × FieldValue))
    (hn : vs.map Prod.fst = fs.map Prod.fst) (hf : firstMisfit fs vs = none) :
    readFields fs (serFields fs vs) = vs := by
  induction fs generalizing vs with
  | nil => cases vs <;> simp_all
  | cons f fs ih =>
    obtain ⟨name, ty⟩ := f
    cases vs with
    | nil => simp at hn
    | cons e vs =>
      obtain ⟨name', v⟩ := e
      simp only [List.map_cons, List.cons.injEq] at hn
      simp only [firstMisfit] at hf
      split at hf
      · rename_i hfit
        rw [serFields, readFields_cons _ _ _ _ _ (length_ser hfit), read_ser hfit, ih vs hn.2 hf, hn.1]
      · simp at hf

theorem length_serFields (fs : List (FieldName × FieldType)) (vs : List (FieldName × FieldValue))
    (hn : vs.map Prod.fst = fs.map Prod.fst) (hf : firstMisfit fs vs = none) :
    (serFields fs vs).length = schemaWidth fs := by
  induction fs generalizing vs with
  | nil => cases vs <;> simp_all [serFields, schemaWidth]
  | cons f fs ih =>
    obtain ⟨name, ty⟩ := f
    cases vs with
    | nil => simp at hn
    | cons e vs =>
      obtain ⟨name', v⟩ := e
      simp only [List.map_cons, List.cons.injEq] at hn
      simp only [firstMisfit] at hf
      split at hf
      · rename_i hfit
        simp [serFields, schemaWidth, length_ser hfit, ih vs hn.2 hf]
      · simp at hf

end Sys2Proof
end

