-- ==== Sys2Proof/Laws/Maps.lean ====
section
/-! SUPPORT. The laws of the finite maps and of the channel-state file: what a read gives after each update, and that
every update keeps the canonical form (log 11). -/

namespace Sys2Proof.Machine

section
variable {κ α : Type} [DecidableEq κ] {rank : κ → Nat}

theorem FMap.get?_put (m : List (κ × α)) (k k' : κ) (v : α) :
    FMap.get? (FMap.put rank m k v) k' = if k = k' then some v else FMap.get? m k' := by
  induction m with
  | nil => simp [FMap.put, FMap.get?]
  | cons e m ih =>
    obtain ⟨k0, v0⟩ := e
    simp only [FMap.put]
    split
    · subst k0; simp only [FMap.get?]; split <;> rfl
    · split
      · simp [FMap.get?]
      · simp only [FMap.get?, ih]
        split
        · subst k0; rw [if_neg (fun h => by simp_all)]
        · rfl

@[simp] theorem FMap.get?_put_self (m : List (κ × α)) (k : κ) (v : α) :
    FMap.get? (FMap.put rank m k v) k = some v := by simp [FMap.get?_put]

theorem FMap.get?_put_of_ne {m : List (κ × α)} {k k' : κ} {v : α} (h : k ≠ k') :
    FMap.get? (FMap.put rank m k v) k' = FMap.get? m k' := by simp [FMap.get?_put, h]

theorem FMap.get?_del (m : List (κ × α)) (k k' : κ) :
    FMap.get? (FMap.del m k) k' = if k = k' then none else FMap.get? m k' := by
  induction m with
  | nil => simp [FMap.del, FMap.get?]
  | cons e m ih =>
    obtain ⟨k0, v0⟩ := e
    simp only [FMap.del] at ih ⊢
    by_cases h : k0 = k
    · subst h
      simp only [List.filter_cons, ne_eq, not_true, decide_false, Bool.false_eq_true, if_false, ih, FMap.get?]
      split <;> rfl
    · simp only [List.filter_cons, ne_eq, h, not_false_eq_true, decide_true, if_true, FMap.get?, ih]
      split
      · subst k0; rw [if_neg (fun e => h e.symm)]
      · rfl

@[simp] theorem FMap.get?_del_self (m : List (κ × α)) (k : κ) : FMap.get? (FMap.del m k) k = none := by
  simp [FMap.get?_del]

theorem FMap.get?_del_of_ne {m : List (κ × α)} {k k' : κ} (h : k ≠ k') :
    FMap.get? (FMap.del m k) k' = FMap.get? m k' := by simp [FMap.get?_del, h]

theorem FMap.mem_of_get?_eq_some {m : List (κ × α)} {k : κ} {v : α} (h : FMap.get? m k = some v) : (k, v) ∈ m := by
  induction m with
  | nil => simp [FMap.get?] at h
  | cons e m ih =>
    obtain ⟨k0, v0⟩ := e
    simp only [FMap.get?] at h
    split at h
    · simp_all
    · exact List.mem_cons_of_mem _ (ih h)

theorem FMap.get?_eq_none_of_forall_ne {m : List (κ × α)} {k : κ} (h : ∀ e ∈ m, e.1 ≠ k) : FMap.get? m k = none := by
  induction m with
  | nil => rfl
  | cons e m ih =>
    simp only [FMap.get?, h e (by simp), if_false]
    exact ih fun e he => h e (by simp [he])

/-- In the canonical form, reading a listed key gives its value. -/
theorem FMap.get?_of_mem {m : List (κ × α)} (hm : FMap.Rising rank m) {k : κ} {v : α} (h : (k, v) ∈ m) :
    FMap.get? m k = some v := by
  induction m with
  | nil => simp at h
  | cons e m ih =>
    obtain ⟨k0, v0⟩ := e
    rw [FMap.Rising, List.pairwise_cons] at hm
    rcases List.mem_cons.1 h with h | h
    · cases h; simp [FMap.get?]
    · have hne : k0 ≠ k := fun e => by subst e; exact absurd (hm.1 _ h) (Nat.lt_irrefl _)
      simp only [FMap.get?, hne, if_false]
      exact ih hm.2 h

theorem FMap.mem_put {m : List (κ × α)} {k : κ} {v : α} {e : κ × α} (h : e ∈ FMap.put rank m k v) :
    e = (k, v) ∨ e ∈ m := by
  induction m with
  | nil => simpa [FMap.put] using h
  | cons e0 m ih =>
    obtain ⟨k0, v0⟩ := e0
    simp only [FMap.put] at h
    split at h
    · rcases List.mem_cons.1 h with h | h
      · exact .inl h
      · exact .inr (List.mem_cons_of_mem _ h)
    · split at h
      · exact List.mem_cons.1 h
      · rcases List.mem_cons.1 h with h | h
        · exact .inr (by simp [h])
        · exact (ih h).imp id (List.mem_cons_of_mem _)

/-- Writing keeps the canonical form, for a rank that tells keys apart. -/
theorem FMap.rising_put (hinj : ∀ a b, rank a = rank b → a = b) {m : List (κ × α)} (hm : FMap.Rising rank m) (k : κ)
    (v : α) : FMap.Rising rank (FMap.put rank m k v) := by
  induction m with
  | nil => simp [FMap.put, FMap.Rising]
  | cons e m ih =>
    obtain ⟨k0, v0⟩ := e
    have hm' := hm
    rw [FMap.Rising, List.pairwise_cons] at hm
    simp only [FMap.put]
    split
    · subst k0; exact List.pairwise_cons.2 hm
    · rename_i hne
      split
      · rename_i hlt
        refine List.pairwise_cons.2 ⟨fun e he => ?_, hm'⟩
        rcases List.mem_cons.1 he with rfl | he
        · exact hlt
        · exact Nat.lt_trans hlt (hm.1 e he)
      · rename_i hlt
        refine List.pairwise_cons.2 ⟨fun e he => ?_, ih hm.2⟩
        rcases FMap.mem_put he with rfl | he
        · exact Nat.lt_of_le_of_ne (Nat.le_of_not_lt hlt) fun e => hne (hinj _ _ e)
        · exact hm.1 e he

theorem FMap.rising_del {m : List (κ × α)} (hm : FMap.Rising rank m) (k : κ) : FMap.Rising rank (FMap.del m k) :=
  hm.sublist List.filter_sublist

theorem FMap.mem_del {m : List (κ × α)} {k : κ} {e : κ × α} : e ∈ FMap.del m k ↔ e ∈ m ∧ e.1 ≠ k := by
  simp [FMap.del]

omit [DecidableEq κ] in
/-- A change entry by entry that keeps the keys keeps the canonical form. -/
theorem FMap.rising_filterMap {β : Type} {m : List (κ × α)} (hm : FMap.Rising rank m) (f : κ × α → Option (κ × β))
    (hf : ∀ e e', f e = some e' → e'.1 = e.1) : FMap.Rising rank (m.filterMap f) := by
  rw [FMap.Rising, List.pairwise_filterMap]
  exact hm.imp fun h a ha b hb => by rw [hf _ _ ha, hf _ _ hb]; exact h

/-- What a change entry by entry makes of one key, in the canonical form. -/
theorem FMap.get?_filterMap {β : Type} {m : List (κ × α)} (hm : FMap.Rising rank m) (g : κ → α → Option β) (k : κ) :
    FMap.get? (m.filterMap fun e => (g e.1 e.2).map fun b => (e.1, b)) k = (FMap.get? m k).bind (g k) := by
  induction m with
  | nil => rfl
  | cons e m ih =>
    obtain ⟨k0, v0⟩ := e
    rw [FMap.Rising, List.pairwise_cons] at hm
    simp only [List.filterMap_cons, FMap.get?]
    by_cases h : k0 = k
    · subst h
      simp only [if_true, Option.bind_some]
      cases hg : g k0 v0 with
      | none =>
        refine FMap.get?_eq_none_of_forall_ne fun e he heq => ?_
        obtain ⟨e', he', hb⟩ := List.mem_filterMap.1 he
        obtain ⟨b, -, rfl⟩ := Option.map_eq_some_iff.1 hb
        have hlt := hm.1 e' he'
        simp only at heq
        rw [heq] at hlt
        exact absurd hlt (Nat.lt_irrefl _)
      | some b => simp [FMap.get?]
    · simp only [h, if_false]
      cases hg : g k0 v0 with
      | none => simpa using ih hm.2
      | some b => simpa [FMap.get?, h] using ih hm.2

end

/-! ### Ranks tell keys apart -/

theorem ModuleAddress.index_injective (a b : ModuleAddress) (h : a.index = b.index) : a = b := by
  have h0 : ModuleAddress.host.index.val = 0 := rfl
  have h1 : ModuleAddress.motherboard.index.val = 1 := rfl
  have h2 : ∀ n, (ModuleAddress.bay n).index.val = n.val + 2 := fun _ => rfl
  have h3 : ModuleAddress.genericUSB.index.val = 12 := rfl
  have h' := congrArg Fin.val h
  cases a <;> cases b <;> simp only [h0, h1, h2, h3] at h' <;>
    first
    | rfl
    | omega
    | exact congrArg ModuleAddress.bay (Fin.ext (by omega))

theorem ChanKey.rank_injective (a b : ChanKey) (h : a.rank = b.rank) : a = b := by
  obtain ⟨m, c⟩ := a
  obtain ⟨m', c'⟩ := b
  simp only [ChanKey.rank] at h
  have h1 := m.index.isLt
  have h2 := m'.index.isLt
  have hc : @Eq Nat c c' := by omega
  have hm : m = m' := ModuleAddress.index_injective _ _ (Fin.ext (by omega))
  rw [hc, hm]

theorem Family.index_injective (f f' : Family) (h : f.index = f'.index) : f = f' := by
  cases f <;> cases f' <;> simp only [Family.index] at h <;> first | rfl | omega | (congr 1; omega)

theorem familyRank_injective (f f' : Option Family) (h : familyRank f = familyRank f') : f = f' := by
  match f, f' with
  | none, none => rfl
  | some f, some f' => exact congrArg some (Family.index_injective f f' (Nat.succ.inj h))

theorem BusyKey.rank_injective (a b : BusyKey) (h : a.rank = b.rank) : a = b := by
  obtain ⟨m, f⟩ := a
  obtain ⟨m', f'⟩ := b
  simp only [BusyKey.rank] at h
  have h1 := m.index.isLt
  have h2 := m'.index.isLt
  have hf : familyRank f = familyRank f' := by omega
  have hm : m = m' := ModuleAddress.index_injective _ _ (Fin.ext (by omega))
  rw [familyRank_injective _ _ hf, hm]

/-! ### The channel-state file -/

theorem chanGet_chanSet (file : List (ChanKey × ChannelState)) (k k' : ChanKey) (c : ChannelState) :
    chanGet (chanSet file k c) k' = if k = k' then c else chanGet file k' := by
  unfold chanGet chanSet
  split
  · rename_i h
    rw [FMap.get?_del]
    split <;> simp_all
  · rw [FMap.get?_put]
    split <;> simp_all

@[simp] theorem chanGet_chanSet_self (file : List (ChanKey × ChannelState)) (k : ChanKey) (c : ChannelState) :
    chanGet (chanSet file k c) k = c := by simp [chanGet_chanSet]

theorem chanGet_chanSet_of_ne {file : List (ChanKey × ChannelState)} {k k' : ChanKey} {c : ChannelState} (h : k ≠ k') :
    chanGet (chanSet file k c) k' = chanGet file k' := by simp [chanGet_chanSet, h]

theorem ChanFile.wf_chanSet {file : List (ChanKey × ChannelState)} (h : ChanFile.wf file) (k : ChanKey)
    (c : ChannelState) : ChanFile.wf (chanSet file k c) := by
  unfold chanSet
  split
  · exact ⟨FMap.rising_del h.1 k, fun e he => h.2 e (FMap.mem_del.1 he).1⟩
  · rename_i hc
    refine ⟨FMap.rising_put ChanKey.rank_injective h.1 k c, fun e he => ?_⟩
    rcases FMap.mem_put he with rfl | he
    · exact hc
    · exact h.2 e he

theorem mem_chanMap {sel : ChanKey → Bool} {g : ChannelState → ChannelState} {file : List (ChanKey × ChannelState)}
    {e : ChanKey × ChannelState} (h : e ∈ chanMap sel g file) :
    ∃ c, (e.1, c) ∈ file ∧ e.2 = (if sel e.1 then g c else c) ∧ (sel e.1 = true → e.2 ≠ ChannelState.init) := by
  obtain ⟨⟨k, c⟩, he', hb⟩ := List.mem_filterMap.1 h
  split at hb
  · split at hb
    · simp at hb
    · rename_i h1 h2
      cases hb
      exact ⟨c, he', (if_pos h1).symm, fun _ => h2⟩
  · rename_i h1
    cases hb
    exact ⟨c, he', (if_neg h1).symm, fun h => absurd h h1⟩

theorem ChanFile.wf_chanMap {file : List (ChanKey × ChannelState)} (h : ChanFile.wf file) (sel : ChanKey → Bool)
    (g : ChannelState → ChannelState) : ChanFile.wf (chanMap sel g file) := by
  refine ⟨FMap.rising_filterMap h.1 _ fun e e' he => ?_, fun e he => ?_⟩
  · split at he
    · split at he
      · simp at he
      · cases he; rfl
    · cases he; rfl
  · obtain ⟨c, hc, h1, h2⟩ := mem_chanMap he
    by_cases hs : sel e.1 = true
    · exact h2 hs
    · rw [h1, if_neg hs]; exact h.2 _ hc

/-- What a change of all selected channels makes of one channel, for a change that keeps `ChannelState.init`. -/
theorem chanGet_chanMap {file : List (ChanKey × ChannelState)} (h : FMap.Rising ChanKey.rank file)
    (sel : ChanKey → Bool) {g : ChannelState → ChannelState} (hg : g ChannelState.init = ChannelState.init)
    (k : ChanKey) : chanGet (chanMap sel g file) k = if sel k then g (chanGet file k) else chanGet file k := by
  let one : ChanKey → ChannelState → Option ChannelState := fun k c =>
    if sel k then (if g c = ChannelState.init then none else some (g c)) else some c
  have key : chanMap sel g file = file.filterMap fun e => (one e.1 e.2).map fun b => (e.1, b) := by
    unfold chanMap
    congr 1
    funext e
    simp only [one]
    split
    · split <;> rfl
    · rfl
  unfold chanGet
  rw [key, FMap.get?_filterMap h one]
  simp only [one]
  cases FMap.get? file k with
  | none => by_cases hs : sel k = true <;> simp [hs, hg]
  | some c =>
    by_cases hs : sel k = true
    · by_cases hi : g c = ChannelState.init <;> simp [hs, hi]
    · simp [hs]

theorem State.chanOf_updateChan (s : State) (m m' : ModuleAddress) (ch ch' : Channel)
    (g : ChannelState → ChannelState) :
    (s.updateChan m ch g).chanOf m' ch' = if m = m' ∧ ch = ch' then g (s.chanOf m ch) else s.chanOf m' ch' := by
  show chanGet (chanSet s.chan ⟨m, ch⟩ (g (s.chanOf m ch))) ⟨m', ch'⟩ = _
  rw [chanGet_chanSet]
  simp only [ChanKey.mk.injEq]
  rfl

@[simp] theorem ChannelState.forget_init : ChannelState.init.forget = ChannelState.init := rfl

@[simp] theorem ChannelState.onErrorReport_init : ChannelState.init.onErrorReport = ChannelState.init := rfl

end Sys2Proof.Machine
end

