-- ==== Sys2Proof/Laws/PerInstr.lean ====
section
/-! SUPPORT. For each instruction: the registry's row of its identifier is its own kind, and that row builds it again from
its operand bytes. -/

namespace Sys2Proof

/-- The instruction that a registry row makes of operand bytes, where their form is the row's. -/
def Build.apply : Build → RawFrame → Option Instr
  | .fixed make, .fixed p1 p2 d s => some (make p1 p2 d s)
  | .variableLen make, .variableLen d s payload => some (make d s payload)
  | _, _ => none

namespace Laws.Registered

/-- The registry knows the instruction's identifier, as the instruction's own kind, and its row rebuilds the instruction
from its operand bytes (R104, R170). -/
def Statement (i : Instr) : Prop :=
  ∃ row, lookupRow i.kind.id = some row ∧ row.kind = i.kind ∧ row.build.apply i.raw = some i

theorem modIdentify (p1 p2 d s : Byte) : Statement (.modIdentify p1 p2 d s) :=
  ⟨⟨kindModIdentify, .fixed .modIdentify⟩, rfl, rfl, rfl⟩

theorem modSetChanenablestate (p1 p2 d s : Byte) : Statement (.modSetChanenablestate p1 p2 d s) :=
  ⟨⟨kindModSetChanenablestate, .fixed .modSetChanenablestate⟩, rfl, rfl, rfl⟩

theorem modReqChanenablestate (p1 p2 d s : Byte) : Statement (.modReqChanenablestate p1 p2 d s) :=
  ⟨⟨kindModReqChanenablestate, .fixed .modReqChanenablestate⟩, rfl, rfl, rfl⟩

theorem modGetChanenablestate (p1 p2 d s : Byte) : Statement (.modGetChanenablestate p1 p2 d s) :=
  ⟨⟨kindModGetChanenablestate, .fixed .modGetChanenablestate⟩, rfl, rfl, rfl⟩

theorem hwDisconnect (p1 p2 d s : Byte) : Statement (.hwDisconnect p1 p2 d s) :=
  ⟨⟨kindHwDisconnect, .fixed .hwDisconnect⟩, rfl, rfl, rfl⟩

theorem hwResponse (p1 p2 d s : Byte) : Statement (.hwResponse p1 p2 d s) :=
  ⟨⟨kindHwResponse, .fixed .hwResponse⟩, rfl, rfl, rfl⟩

theorem hwRichresponse (d s : Byte) (payload : List Byte) : Statement (.hwRichresponse d s payload) :=
  ⟨⟨kindHwRichresponse, .variableLen .hwRichresponse⟩, rfl, rfl, rfl⟩

theorem hwStartUpdatemsgs (p1 p2 d s : Byte) : Statement (.hwStartUpdatemsgs p1 p2 d s) :=
  ⟨⟨kindHwStartUpdatemsgs, .fixed .hwStartUpdatemsgs⟩, rfl, rfl, rfl⟩

theorem hwStopUpdatemsgs (p1 p2 d s : Byte) : Statement (.hwStopUpdatemsgs p1 p2 d s) :=
  ⟨⟨kindHwStopUpdatemsgs, .fixed .hwStopUpdatemsgs⟩, rfl, rfl, rfl⟩

theorem hwReqInfo (p1 p2 d s : Byte) : Statement (.hwReqInfo p1 p2 d s) :=
  ⟨⟨kindHwReqInfo, .fixed .hwReqInfo⟩, rfl, rfl, rfl⟩

theorem hwGetInfo (d s : Byte) (payload : List Byte) : Statement (.hwGetInfo d s payload) :=
  ⟨⟨kindHwGetInfo, .variableLen .hwGetInfo⟩, rfl, rfl, rfl⟩

theorem rackReqBayused (p1 p2 d s : Byte) : Statement (.rackReqBayused p1 p2 d s) :=
  ⟨⟨kindRackReqBayused, .fixed .rackReqBayused⟩, rfl, rfl, rfl⟩

theorem rackGetBayused (p1 p2 d s : Byte) : Statement (.rackGetBayused p1 p2 d s) :=
  ⟨⟨kindRackGetBayused, .fixed .rackGetBayused⟩, rfl, rfl, rfl⟩

theorem hubReqBayused (p1 p2 d s : Byte) : Statement (.hubReqBayused p1 p2 d s) :=
  ⟨⟨kindHubReqBayused, .fixed .hubReqBayused⟩, rfl, rfl, rfl⟩

theorem hubGetBayused (p1 p2 d s : Byte) : Statement (.hubGetBayused p1 p2 d s) :=
  ⟨⟨kindHubGetBayused, .fixed .hubGetBayused⟩, rfl, rfl, rfl⟩

theorem motSetVelparams (d s : Byte) (payload : List Byte) : Statement (.motSetVelparams d s payload) :=
  ⟨⟨kindMotSetVelparams, .variableLen .motSetVelparams⟩, rfl, rfl, rfl⟩

theorem motReqVelparams (p1 p2 d s : Byte) : Statement (.motReqVelparams p1 p2 d s) :=
  ⟨⟨kindMotReqVelparams, .fixed .motReqVelparams⟩, rfl, rfl, rfl⟩

theorem motGetVelparams (d s : Byte) (payload : List Byte) : Statement (.motGetVelparams d s payload) :=
  ⟨⟨kindMotGetVelparams, .variableLen .motGetVelparams⟩, rfl, rfl, rfl⟩

theorem motSetJogparams (d s : Byte) (payload : List Byte) : Statement (.motSetJogparams d s payload) :=
  ⟨⟨kindMotSetJogparams, .variableLen .motSetJogparams⟩, rfl, rfl, rfl⟩

theorem motReqJogparams (p1 p2 d s : Byte) : Statement (.motReqJogparams p1 p2 d s) :=
  ⟨⟨kindMotReqJogparams, .fixed .motReqJogparams⟩, rfl, rfl, rfl⟩

theorem motGetJogparams (d s : Byte) (payload : List Byte) : Statement (.motGetJogparams d s payload) :=
  ⟨⟨kindMotGetJogparams, .variableLen .motGetJogparams⟩, rfl, rfl, rfl⟩

theorem motSetLimswitchparams (d s : Byte) (payload : List Byte) : Statement (.motSetLimswitchparams d s payload) :=
  ⟨⟨kindMotSetLimswitchparams, .variableLen .motSetLimswitchparams⟩, rfl, rfl, rfl⟩

theorem motReqLimswitchparams (p1 p2 d s : Byte) : Statement (.motReqLimswitchparams p1 p2 d s) :=
  ⟨⟨kindMotReqLimswitchparams, .fixed .motReqLimswitchparams⟩, rfl, rfl, rfl⟩

theorem motGetLimswitchparams (d s : Byte) (payload : List Byte) : Statement (.motGetLimswitchparams d s payload) :=
  ⟨⟨kindMotGetLimswitchparams, .variableLen .motGetLimswitchparams⟩, rfl, rfl, rfl⟩

theorem motReqAdcinputs (p1 p2 d s : Byte) : Statement (.motReqAdcinputs p1 p2 d s) :=
  ⟨⟨kindMotReqAdcinputs, .fixed .motReqAdcinputs⟩, rfl, rfl, rfl⟩

theorem motGetAdcinputs (d s : Byte) (payload : List Byte) : Statement (.motGetAdcinputs d s payload) :=
  ⟨⟨kindMotGetAdcinputs, .variableLen .motGetAdcinputs⟩, rfl, rfl, rfl⟩

theorem motSetHomeparams (d s : Byte) (payload : List Byte) : Statement (.motSetHomeparams d s payload) :=
  ⟨⟨kindMotSetHomeparams, .variableLen .motSetHomeparams⟩, rfl, rfl, rfl⟩

theorem motReqHomeparams (p1 p2 d s : Byte) : Statement (.motReqHomeparams p1 p2 d s) :=
  ⟨⟨kindMotReqHomeparams, .fixed .motReqHomeparams⟩, rfl, rfl, rfl⟩

theorem motGetHomeparams (d s : Byte) (payload : List Byte) : Statement (.motGetHomeparams d s payload) :=
  ⟨⟨kindMotGetHomeparams, .variableLen .motGetHomeparams⟩, rfl, rfl, rfl⟩

theorem motMoveHome (p1 p2 d s : Byte) : Statement (.motMoveHome p1 p2 d s) :=
  ⟨⟨kindMotMoveHome, .fixed .motMoveHome⟩, rfl, rfl, rfl⟩

theorem motMoveHomed (p1 p2 d s : Byte) : Statement (.motMoveHomed p1 p2 d s) :=
  ⟨⟨kindMotMoveHomed, .fixed .motMoveHomed⟩, rfl, rfl, rfl⟩

theorem motSetMoverelparams (d s : Byte) (payload : List Byte) : Statement (.motSetMoverelparams d s payload) :=
  ⟨⟨kindMotSetMoverelparams, .variableLen .motSetMoverelparams⟩, rfl, rfl, rfl⟩

theorem motReqMoverelparams (p1 p2 d s : Byte) : Statement (.motReqMoverelparams p1 p2 d s) :=
  ⟨⟨kindMotReqMoverelparams, .fixed .motReqMoverelparams⟩, rfl, rfl, rfl⟩

theorem motGetMoverelparams (d s : Byte) (payload : List Byte) : Statement (.motGetMoverelparams d s payload) :=
  ⟨⟨kindMotGetMoverelparams, .variableLen .motGetMoverelparams⟩, rfl, rfl, rfl⟩

theorem motMoveRelative (p1 p2 d s : Byte) : Statement (.motMoveRelative p1 p2 d s) :=
  ⟨⟨kindMotMoveRelative, .fixed .motMoveRelative⟩, rfl, rfl, rfl⟩

theorem motSetMoveabsparams (d s : Byte) (payload : List Byte) : Statement (.motSetMoveabsparams d s payload) :=
  ⟨⟨kindMotSetMoveabsparams, .variableLen .motSetMoveabsparams⟩, rfl, rfl, rfl⟩

theorem motReqMoveabsparams (p1 p2 d s : Byte) : Statement (.motReqMoveabsparams p1 p2 d s) :=
  ⟨⟨kindMotReqMoveabsparams, .fixed .motReqMoveabsparams⟩, rfl, rfl, rfl⟩

theorem motGetMoveabsparams (d s : Byte) (payload : List Byte) : Statement (.motGetMoveabsparams d s payload) :=
  ⟨⟨kindMotGetMoveabsparams, .variableLen .motGetMoveabsparams⟩, rfl, rfl, rfl⟩

theorem motMoveAbsolute (p1 p2 d s : Byte) : Statement (.motMoveAbsolute p1 p2 d s) :=
  ⟨⟨kindMotMoveAbsolute, .fixed .motMoveAbsolute⟩, rfl, rfl, rfl⟩

theorem motMoveVelocity (p1 p2 d s : Byte) : Statement (.motMoveVelocity p1 p2 d s) :=
  ⟨⟨kindMotMoveVelocity, .fixed .motMoveVelocity⟩, rfl, rfl, rfl⟩

theorem motMoveCompleted (d s : Byte) (payload : List Byte) : Statement (.motMoveCompleted d s payload) :=
  ⟨⟨kindMotMoveCompleted, .variableLen .motMoveCompleted⟩, rfl, rfl, rfl⟩

theorem motMoveStop (p1 p2 d s : Byte) : Statement (.motMoveStop p1 p2 d s) :=
  ⟨⟨kindMotMoveStop, .fixed .motMoveStop⟩, rfl, rfl, rfl⟩

theorem motMoveStopped (d s : Byte) (payload : List Byte) : Statement (.motMoveStopped d s payload) :=
  ⟨⟨kindMotMoveStopped, .variableLen .motMoveStopped⟩, rfl, rfl, rfl⟩

theorem motMoveJog (p1 p2 d s : Byte) : Statement (.motMoveJog p1 p2 d s) :=
  ⟨⟨kindMotMoveJog, .fixed .motMoveJog⟩, rfl, rfl, rfl⟩

end Laws.Registered

end Sys2Proof
end

