-- ==== Sys2Proof/Laws/Registry.lean ====
section
/-! SUPPORT. The laws of the registry and of `encode`: what a row is, what a lookup finds, and everything a successful
`encode` can answer. -/

namespace Sys2Proof

/-- Every instruction is registered. -/
theorem registered (i : Instr) : Laws.Registered.Statement i := by
  cases i
  all_goals exact ⟨⟨_, _⟩, rfl, rfl, rfl⟩

/-- What every row of the registry is: its kind's shape and schema agree with the instructions it builds. -/
theorem rows_build (r : Row) (hr : r ∈ rows) :
    match r.build with
    | .fixed make => r.kind.shape = .fixed ∧ r.kind.schema = .fixed2 ∧
        ∀ p1 p2 d s, (make p1 p2 d s).kind = r.kind ∧ (make p1 p2 d s).raw = .fixed p1 p2 d s
    | .variableLen make => r.kind.shape = .variableLen ∧ (∃ fs, r.kind.schema = .fields fs) ∧
        ∀ d s payload, (make d s payload).kind = r.kind ∧ (make d s payload).raw = .variableLen d s payload := by
  simp only [rows, rowsModule, rowsHardware, rowsRackHub, rowsParams, rowsMotion, List.cons_append, List.nil_append,
    List.mem_cons, List.not_mem_nil, or_false] at hr
  rcases hr with rfl | rfl | rfl | rfl | rfl | rfl | rfl | rfl | rfl | rfl | rfl | rfl | rfl | rfl | rfl | rfl | rfl |
    rfl | rfl | rfl | rfl | rfl | rfl | rfl | rfl | rfl | rfl | rfl | rfl | rfl | rfl | rfl | rfl | rfl | rfl | rfl |
    rfl | rfl | rfl | rfl | rfl | rfl | rfl | rfl
  all_goals first
    | exact ⟨rfl, rfl, fun _ _ _ _ => ⟨rfl, rfl⟩⟩
    | exact ⟨rfl, ⟨_, rfl⟩, fun _ _ _ => ⟨rfl, rfl⟩⟩

theorem lookupRow_spec {id : MsgId} {r : Row} (h : lookupRow id = some r) : r ∈ rows ∧ r.kind.id = id := by
  unfold lookupRow at h
  exact ⟨List.mem_of_find?_eq_some h, by simpa using List.find?_some h⟩

/-- What a lookup finds in a catalogue. -/
theorem lookup_spec {cat : List Kind} {id : MsgId} {k : Kind} (h : lookup cat id = some k) : k ∈ cat ∧ k.id = id :=
  ⟨List.mem_of_find?_eq_some h, by simpa using List.find?_some h⟩

theorem named_spec {cat : List Kind} {name : KindName} {k : Kind} (h : named cat name = some k) :
    k ∈ cat ∧ k.name = name :=
  ⟨List.mem_of_find?_eq_some h, by simpa using List.find?_some h⟩

/-- A kind of a catalogue with distinct identifiers is found under its own. -/
theorem lookup_of_mem {cat : List Kind} (hn : (cat.map Kind.id).Nodup) {k : Kind} (h : k ∈ cat) :
    lookup cat k.id = some k := by
  induction cat with
  | nil => simp at h
  | cons k' cat ih =>
    rw [List.map_cons, List.nodup_cons] at hn
    rcases List.mem_cons.1 h with rfl | h
    · simp [lookup]
    · have hne : k'.id ≠ k.id := fun he => hn.1 (he ▸ List.mem_map_of_mem h)
      simpa [lookup, List.find?_cons, hne] using ih hn.2 h

theorem lookup_catalogue (id : MsgId) : lookup catalogue id = (lookupRow id).map Row.kind := by
  simp only [lookup, catalogue, lookupRow, List.find?_map]
  rfl

theorem catalogue_nodup : (catalogue.map Kind.id).Nodup := by decide +kernel

theorem lookup_of_mem_catalogue {k : Kind} (h : k ∈ catalogue) : lookup catalogue k.id = some k :=
  lookup_of_mem catalogue_nodup h

/-! ### Well-formed catalogues (R14) -/

/-- What construction checks of a catalogue. -/
theorem catalogueWf_iff {cat : List Kind} :
    catalogueWf cat = true ↔
      (cat.map Kind.id).Nodup ∧ (∀ k ∈ cat, k.wf = true ∧ k.responsesWf cat = true) ∧ keepsFixedKinds cat = true := by
  simp [catalogueWf, and_assoc]

theorem catalogueWf_catalogue : catalogueWf catalogue = true := by decide +kernel

/-- What a well-formed kind is by itself. -/
theorem wf_spec {k : Kind} (h : k.wf = true) :
    (k.shape = .fixed ↔ k.schema = .fixed2) ∧ k.schema.width ≤ maxPayload ∧ k.schema.legal = true ∧
      (k.responses ≠ [] ↔ k.role = .request) ∧ (k.role = .request ∨ k.role = .set → k.family.isSome = true) := by
  simp only [Kind.wf, Bool.and_eq_true, decide_eq_true_eq, beq_iff_eq, Bool.or_eq_true, Bool.not_eq_true'] at h
  obtain ⟨⟨⟨⟨h1, h2⟩, h3⟩, h4⟩, h5⟩ := h
  refine ⟨?_, h2, h3, ?_, ?_⟩
  · rw [Bool.eq_iff_iff] at h1; simpa using h1
  · rw [Bool.eq_iff_iff] at h4; simpa using h4
  · rintro (h | h) <;> simp_all

/-- What a catalogue that keeps a kind of R300 holds. -/
theorem fixesKind_iff {cat : List Kind} {id : MsgId} {name : KindName} {p : Kind → Bool} :
    fixesKind cat id name p = true ↔ ∃ k, named cat name = some k ∧ k.id = id ∧ p k = true := by
  simp [fixesKind, Option.any_eq_true]

/-- The kind of an instruction is a kind of the catalogue. -/
theorem kind_mem_catalogue (i : Instr) : i.kind ∈ catalogue := by
  obtain ⟨row, h, hk, -⟩ := registered i
  exact List.mem_map.2 ⟨row, (lookupRow_spec h).1, hk⟩

theorem width_le_maxPayload : ∀ k ∈ catalogue, k.schema.width ≤ maxPayload := by decide +kernel

theorem firstMisfit_eq_none_iff (fs : List (FieldName × FieldType)) (vs : List (FieldName × FieldValue))
    (hn : vs.map Prod.fst = fs.map Prod.fst) :
    firstMisfit fs vs = none ↔ ∀ e ∈ fs.zip vs, e.1.2.fits e.2.2 = true := by
  induction fs generalizing vs with
  | nil => simp [firstMisfit]
  | cons f fs ih =>
    cases vs with
    | nil => simp at hn
    | cons v vs =>
      simp only [List.map_cons, List.cons.injEq] at hn
      simp only [firstMisfit, List.zip_cons_cons, List.mem_cons, forall_eq_or_imp]
      split
      · rename_i h; simp [h, ih vs hn.2]
      · rename_i h; simp [h]

/-- The operands that pass the schema checks of a fixed kind. -/
theorem fieldsError_fixed2 {fields : FrameFields} (h : fieldsError .fixed2 fields = none) :
    ∃ p1 p2 : Byte, fields = .params [p1.toNat, p2.toNat] := by
  match fields, h with
  | .params [p1, p2], h =>
    simp only [fieldsError] at h
    split at h
    · simp at h
    · exact ⟨BitVec.ofNat 8 p1, BitVec.ofNat 8 p2, by simp; omega⟩
  | .params [], h => simp [fieldsError] at h
  | .params [_], h => simp [fieldsError] at h
  | .params (_ :: _ :: _ :: _), h => simp [fieldsError] at h
  | .values _, h => simp [fieldsError] at h

/-- The operands that pass the schema checks of a kind with a field schema. -/
theorem fieldsError_fields {fs : List (FieldName × FieldType)} {fields : FrameFields}
    (h : fieldsError (.fields fs) fields = none) :
    ∃ vs, fields = .values (.record vs) ∧ vs.map Prod.fst = fs.map Prod.fst ∧ firstMisfit fs vs = none := by
  match fields, h with
  | .values (.record vs), h =>
    simp only [fieldsError] at h
    split at h
    · simp at h
    · rename_i hn; exact ⟨vs, rfl, by simpa using hn, by simpa using h⟩
  | .values (.raw _), h => simp [fieldsError] at h
  | .params _, h => simp [fieldsError] at h

/-- What the checks of `encode` have found when they pass. -/
theorem encodeCheck_of_ok {cat : List Kind} {id : MsgId} {dest source : Byte} {fields : FrameFields} {k : Kind}
    {d : ModuleAddress} (h : encodeCheck cat id dest source fields = .ok (k, d)) :
    ∃ m, lookup cat id = some k ∧ validate dest = some d ∧ validate source = some m ∧ d ≠ m ∧
      fieldsError k.schema fields = none := by
  unfold encodeCheck at h
  split at h
  · simp at h
  rename_i k' hk
  split at h
  · simp at h
  rename_i d' hd
  split at h
  · simp at h
  rename_i m hm
  split at h
  · simp at h
  rename_i hne
  split at h
  · simp at h
  rename_i hf
  simp only [Except.ok.injEq, Prod.mk.injEq] at h
  obtain ⟨rfl, rfl⟩ := h
  exact ⟨m, hk, hd, hm, hne, hf⟩

end Sys2Proof
end

