-- ==== Sys2Proof/Laws/State.lean ====
section
/-! SUPPORT. One lemma per field per update of the state, so that no proof unfolds a record update. -/

namespace Sys2Proof.Machine

variable (s : State)

/-! `setConn` -/

@[simp] theorem State.setConn_conn (v : Conn) : (s.setConn v).conn = v := rfl
@[simp] theorem State.setConn_rx (v : Conn) : (s.setConn v).rx = s.rx := rfl
@[simp] theorem State.setConn_cmdq (v : Conn) : (s.setConn v).cmdq = s.cmdq := rfl
@[simp] theorem State.setConn_nextTag (v : Conn) : (s.setConn v).nextTag = s.nextTag := rfl
@[simp] theorem State.setConn_pending (v : Conn) : (s.setConn v).pending = s.pending := rfl
@[simp] theorem State.setConn_waitq (v : Conn) : (s.setConn v).waitq = s.waitq := rfl
@[simp] theorem State.setConn_subs (v : Conn) : (s.setConn v).subs = s.subs := rfl
@[simp] theorem State.setConn_chan (v : Conn) : (s.setConn v).chan = s.chan := rfl
@[simp] theorem State.setConn_now (v : Conn) : (s.setConn v).now = s.now := rfl
@[simp] theorem State.setConn_txlog (v : Conn) : (s.setConn v).txlog = s.txlog := rfl
@[simp] theorem State.setConn_results (v : Conn) : (s.setConn v).results = s.results := rfl
@[simp] theorem State.setConn_notify (v : Conn) : (s.setConn v).notify = s.notify := rfl
@[simp] theorem State.setConn_events (v : Conn) : (s.setConn v).events = s.events := rfl
@[simp] theorem State.setConn_env (v : Conn) : (s.setConn v).env = s.env := rfl

/-! `setRx` -/

@[simp] theorem State.setRx_conn (v : List Byte) : (s.setRx v).conn = s.conn := rfl
@[simp] theorem State.setRx_rx (v : List Byte) : (s.setRx v).rx = v := rfl
@[simp] theorem State.setRx_cmdq (v : List Byte) : (s.setRx v).cmdq = s.cmdq := rfl
@[simp] theorem State.setRx_nextTag (v : List Byte) : (s.setRx v).nextTag = s.nextTag := rfl
@[simp] theorem State.setRx_pending (v : List Byte) : (s.setRx v).pending = s.pending := rfl
@[simp] theorem State.setRx_waitq (v : List Byte) : (s.setRx v).waitq = s.waitq := rfl
@[simp] theorem State.setRx_subs (v : List Byte) : (s.setRx v).subs = s.subs := rfl
@[simp] theorem State.setRx_chan (v : List Byte) : (s.setRx v).chan = s.chan := rfl
@[simp] theorem State.setRx_now (v : List Byte) : (s.setRx v).now = s.now := rfl
@[simp] theorem State.setRx_txlog (v : List Byte) : (s.setRx v).txlog = s.txlog := rfl
@[simp] theorem State.setRx_results (v : List Byte) : (s.setRx v).results = s.results := rfl
@[simp] theorem State.setRx_notify (v : List Byte) : (s.setRx v).notify = s.notify := rfl
@[simp] theorem State.setRx_events (v : List Byte) : (s.setRx v).events = s.events := rfl
@[simp] theorem State.setRx_env (v : List Byte) : (s.setRx v).env = s.env := rfl

/-! `setCmdq` -/

@[simp] theorem State.setCmdq_conn (v : List (Tag × Op)) : (s.setCmdq v).conn = s.conn := rfl
@[simp] theorem State.setCmdq_rx (v : List (Tag × Op)) : (s.setCmdq v).rx = s.rx := rfl
@[simp] theorem State.setCmdq_cmdq (v : List (Tag × Op)) : (s.setCmdq v).cmdq = v := rfl
@[simp] theorem State.setCmdq_nextTag (v : List (Tag × Op)) : (s.setCmdq v).nextTag = s.nextTag := rfl
@[simp] theorem State.setCmdq_pending (v : List (Tag × Op)) : (s.setCmdq v).pending = s.pending := rfl
@[simp] theorem State.setCmdq_waitq (v : List (Tag × Op)) : (s.setCmdq v).waitq = s.waitq := rfl
@[simp] theorem State.setCmdq_subs (v : List (Tag × Op)) : (s.setCmdq v).subs = s.subs := rfl
@[simp] theorem State.setCmdq_chan (v : List (Tag × Op)) : (s.setCmdq v).chan = s.chan := rfl
@[simp] theorem State.setCmdq_now (v : List (Tag × Op)) : (s.setCmdq v).now = s.now := rfl
@[simp] theorem State.setCmdq_txlog (v : List (Tag × Op)) : (s.setCmdq v).txlog = s.txlog := rfl
@[simp] theorem State.setCmdq_results (v : List (Tag × Op)) : (s.setCmdq v).results = s.results := rfl
@[simp] theorem State.setCmdq_notify (v : List (Tag × Op)) : (s.setCmdq v).notify = s.notify := rfl
@[simp] theorem State.setCmdq_events (v : List (Tag × Op)) : (s.setCmdq v).events = s.events := rfl
@[simp] theorem State.setCmdq_env (v : List (Tag × Op)) : (s.setCmdq v).env = s.env := rfl

/-! `setNextTag` -/

@[simp] theorem State.setNextTag_conn (v : Tag) : (s.setNextTag v).conn = s.conn := rfl
@[simp] theorem State.setNextTag_rx (v : Tag) : (s.setNextTag v).rx = s.rx := rfl
@[simp] theorem State.setNextTag_cmdq (v : Tag) : (s.setNextTag v).cmdq = s.cmdq := rfl
@[simp] theorem State.setNextTag_nextTag (v : Tag) : (s.setNextTag v).nextTag = v := rfl
@[simp] theorem State.setNextTag_pending (v : Tag) : (s.setNextTag v).pending = s.pending := rfl
@[simp] theorem State.setNextTag_waitq (v : Tag) : (s.setNextTag v).waitq = s.waitq := rfl
@[simp] theorem State.setNextTag_subs (v : Tag) : (s.setNextTag v).subs = s.subs := rfl
@[simp] theorem State.setNextTag_chan (v : Tag) : (s.setNextTag v).chan = s.chan := rfl
@[simp] theorem State.setNextTag_now (v : Tag) : (s.setNextTag v).now = s.now := rfl
@[simp] theorem State.setNextTag_txlog (v : Tag) : (s.setNextTag v).txlog = s.txlog := rfl
@[simp] theorem State.setNextTag_results (v : Tag) : (s.setNextTag v).results = s.results := rfl
@[simp] theorem State.setNextTag_notify (v : Tag) : (s.setNextTag v).notify = s.notify := rfl
@[simp] theorem State.setNextTag_events (v : Tag) : (s.setNextTag v).events = s.events := rfl
@[simp] theorem State.setNextTag_env (v : Tag) : (s.setNextTag v).env = s.env := rfl

/-! `setPending` -/

@[simp] theorem State.setPending_conn (v : List (Tag × Pending)) : (s.setPending v).conn = s.conn := rfl
@[simp] theorem State.setPending_rx (v : List (Tag × Pending)) : (s.setPending v).rx = s.rx := rfl
@[simp] theorem State.setPending_cmdq (v : List (Tag × Pending)) : (s.setPending v).cmdq = s.cmdq := rfl
@[simp] theorem State.setPending_nextTag (v : List (Tag × Pending)) : (s.setPending v).nextTag = s.nextTag := rfl
@[simp] theorem State.setPending_pending (v : List (Tag × Pending)) : (s.setPending v).pending = v := rfl
@[simp] theorem State.setPending_waitq (v : List (Tag × Pending)) : (s.setPending v).waitq = s.waitq := rfl
@[simp] theorem State.setPending_subs (v : List (Tag × Pending)) : (s.setPending v).subs = s.subs := rfl
@[simp] theorem State.setPending_chan (v : List (Tag × Pending)) : (s.setPending v).chan = s.chan := rfl
@[simp] theorem State.setPending_now (v : List (Tag × Pending)) : (s.setPending v).now = s.now := rfl
@[simp] theorem State.setPending_txlog (v : List (Tag × Pending)) : (s.setPending v).txlog = s.txlog := rfl
@[simp] theorem State.setPending_results (v : List (Tag × Pending)) : (s.setPending v).results = s.results := rfl
@[simp] theorem State.setPending_notify (v : List (Tag × Pending)) : (s.setPending v).notify = s.notify := rfl
@[simp] theorem State.setPending_events (v : List (Tag × Pending)) : (s.setPending v).events = s.events := rfl
@[simp] theorem State.setPending_env (v : List (Tag × Pending)) : (s.setPending v).env = s.env := rfl

/-! `setWaitq` -/

@[simp] theorem State.setWaitq_conn (v : List (BusyKey × List Deferred)) : (s.setWaitq v).conn = s.conn := rfl
@[simp] theorem State.setWaitq_rx (v : List (BusyKey × List Deferred)) : (s.setWaitq v).rx = s.rx := rfl
@[simp] theorem State.setWaitq_cmdq (v : List (BusyKey × List Deferred)) : (s.setWaitq v).cmdq = s.cmdq := rfl
@[simp] theorem State.setWaitq_nextTag (v : List (BusyKey × List Deferred)) : (s.setWaitq v).nextTag = s.nextTag := rfl
@[simp] theorem State.setWaitq_pending (v : List (BusyKey × List Deferred)) : (s.setWaitq v).pending = s.pending := rfl
@[simp] theorem State.setWaitq_waitq (v : List (BusyKey × List Deferred)) : (s.setWaitq v).waitq = v := rfl
@[simp] theorem State.setWaitq_subs (v : List (BusyKey × List Deferred)) : (s.setWaitq v).subs = s.subs := rfl
@[simp] theorem State.setWaitq_chan (v : List (BusyKey × List Deferred)) : (s.setWaitq v).chan = s.chan := rfl
@[simp] theorem State.setWaitq_now (v : List (BusyKey × List Deferred)) : (s.setWaitq v).now = s.now := rfl
@[simp] theorem State.setWaitq_txlog (v : List (BusyKey × List Deferred)) : (s.setWaitq v).txlog = s.txlog := rfl
@[simp] theorem State.setWaitq_results (v : List (BusyKey × List Deferred)) : (s.setWaitq v).results = s.results := rfl
@[simp] theorem State.setWaitq_notify (v : List (BusyKey × List Deferred)) : (s.setWaitq v).notify = s.notify := rfl
@[simp] theorem State.setWaitq_events (v : List (BusyKey × List Deferred)) : (s.setWaitq v).events = s.events := rfl
@[simp] theorem State.setWaitq_env (v : List (BusyKey × List Deferred)) : (s.setWaitq v).env = s.env := rfl

/-! `setSubs` -/

@[simp] theorem State.setSubs_conn (v : Vector Subscription 13) : (s.setSubs v).conn = s.conn := rfl
@[simp] theorem State.setSubs_rx (v : Vector Subscription 13) : (s.setSubs v).rx = s.rx := rfl
@[simp] theorem State.setSubs_cmdq (v : Vector Subscription 13) : (s.setSubs v).cmdq = s.cmdq := rfl
@[simp] theorem State.setSubs_nextTag (v : Vector Subscription 13) : (s.setSubs v).nextTag = s.nextTag := rfl
@[simp] theorem State.setSubs_pending (v : Vector Subscription 13) : (s.setSubs v).pending = s.pending := rfl
@[simp] theorem State.setSubs_waitq (v : Vector Subscription 13) : (s.setSubs v).waitq = s.waitq := rfl
@[simp] theorem State.setSubs_subs (v : Vector Subscription 13) : (s.setSubs v).subs = v := rfl
@[simp] theorem State.setSubs_chan (v : Vector Subscription 13) : (s.setSubs v).chan = s.chan := rfl
@[simp] theorem State.setSubs_now (v : Vector Subscription 13) : (s.setSubs v).now = s.now := rfl
@[simp] theorem State.setSubs_txlog (v : Vector Subscription 13) : (s.setSubs v).txlog = s.txlog := rfl
@[simp] theorem State.setSubs_results (v : Vector Subscription 13) : (s.setSubs v).results = s.results := rfl
@[simp] theorem State.setSubs_notify (v : Vector Subscription 13) : (s.setSubs v).notify = s.notify := rfl
@[simp] theorem State.setSubs_events (v : Vector Subscription 13) : (s.setSubs v).events = s.events := rfl
@[simp] theorem State.setSubs_env (v : Vector Subscription 13) : (s.setSubs v).env = s.env := rfl

/-! `setChan` -/

@[simp] theorem State.setChan_conn (v : List (ChanKey × ChannelState)) : (s.setChan v).conn = s.conn := rfl
@[simp] theorem State.setChan_rx (v : List (ChanKey × ChannelState)) : (s.setChan v).rx = s.rx := rfl
@[simp] theorem State.setChan_cmdq (v : List (ChanKey × ChannelState)) : (s.setChan v).cmdq = s.cmdq := rfl
@[simp] theorem State.setChan_nextTag (v : List (ChanKey × ChannelState)) : (s.setChan v).nextTag = s.nextTag := rfl
@[simp] theorem State.setChan_pending (v : List (ChanKey × ChannelState)) : (s.setChan v).pending = s.pending := rfl
@[simp] theorem State.setChan_waitq (v : List (ChanKey × ChannelState)) : (s.setChan v).waitq = s.waitq := rfl
@[simp] theorem State.setChan_subs (v : List (ChanKey × ChannelState)) : (s.setChan v).subs = s.subs := rfl
@[simp] theorem State.setChan_chan (v : List (ChanKey × ChannelState)) : (s.setChan v).chan = v := rfl
@[simp] theorem State.setChan_now (v : List (ChanKey × ChannelState)) : (s.setChan v).now = s.now := rfl
@[simp] theorem State.setChan_txlog (v : List (ChanKey × ChannelState)) : (s.setChan v).txlog = s.txlog := rfl
@[simp] theorem State.setChan_results (v : List (ChanKey × ChannelState)) : (s.setChan v).results = s.results := rfl
@[simp] theorem State.setChan_notify (v : List (ChanKey × ChannelState)) : (s.setChan v).notify = s.notify := rfl
@[simp] theorem State.setChan_events (v : List (ChanKey × ChannelState)) : (s.setChan v).events = s.events := rfl
@[simp] theorem State.setChan_env (v : List (ChanKey × ChannelState)) : (s.setChan v).env = s.env := rfl

/-! `setNow` -/

@[simp] theorem State.setNow_conn (v : Ticks) : (s.setNow v).conn = s.conn := rfl
@[simp] theorem State.setNow_rx (v : Ticks) : (s.setNow v).rx = s.rx := rfl
@[simp] theorem State.setNow_cmdq (v : Ticks) : (s.setNow v).cmdq = s.cmdq := rfl
@[simp] theorem State.setNow_nextTag (v : Ticks) : (s.setNow v).nextTag = s.nextTag := rfl
@[simp] theorem State.setNow_pending (v : Ticks) : (s.setNow v).pending = s.pending := rfl
@[simp] theorem State.setNow_waitq (v : Ticks) : (s.setNow v).waitq = s.waitq := rfl
@[simp] theorem State.setNow_subs (v : Ticks) : (s.setNow v).subs = s.subs := rfl
@[simp] theorem State.setNow_chan (v : Ticks) : (s.setNow v).chan = s.chan := rfl
@[simp] theorem State.setNow_now (v : Ticks) : (s.setNow v).now = v := rfl
@[simp] theorem State.setNow_txlog (v : Ticks) : (s.setNow v).txlog = s.txlog := rfl
@[simp] theorem State.setNow_results (v : Ticks) : (s.setNow v).results = s.results := rfl
@[simp] theorem State.setNow_notify (v : Ticks) : (s.setNow v).notify = s.notify := rfl
@[simp] theorem State.setNow_events (v : Ticks) : (s.setNow v).events = s.events := rfl
@[simp] theorem State.setNow_env (v : Ticks) : (s.setNow v).env = s.env := rfl

/-! `setEnv` -/

@[simp] theorem State.setEnv_conn (v : Env) : (s.setEnv v).conn = s.conn := rfl
@[simp] theorem State.setEnv_rx (v : Env) : (s.setEnv v).rx = s.rx := rfl
@[simp] theorem State.setEnv_cmdq (v : Env) : (s.setEnv v).cmdq = s.cmdq := rfl
@[simp] theorem State.setEnv_nextTag (v : Env) : (s.setEnv v).nextTag = s.nextTag := rfl
@[simp] theorem State.setEnv_pending (v : Env) : (s.setEnv v).pending = s.pending := rfl
@[simp] theorem State.setEnv_waitq (v : Env) : (s.setEnv v).waitq = s.waitq := rfl
@[simp] theorem State.setEnv_subs (v : Env) : (s.setEnv v).subs = s.subs := rfl
@[simp] theorem State.setEnv_chan (v : Env) : (s.setEnv v).chan = s.chan := rfl
@[simp] theorem State.setEnv_now (v : Env) : (s.setEnv v).now = s.now := rfl
@[simp] theorem State.setEnv_txlog (v : Env) : (s.setEnv v).txlog = s.txlog := rfl
@[simp] theorem State.setEnv_results (v : Env) : (s.setEnv v).results = s.results := rfl
@[simp] theorem State.setEnv_notify (v : Env) : (s.setEnv v).notify = s.notify := rfl
@[simp] theorem State.setEnv_events (v : Env) : (s.setEnv v).events = s.events := rfl
@[simp] theorem State.setEnv_env (v : Env) : (s.setEnv v).env = v := rfl

/-! `pushTx` -/

@[simp] theorem State.pushTx_conn (bytes : List Byte) (r : TxAnswer) : (s.pushTx bytes r).conn = s.conn := rfl
@[simp] theorem State.pushTx_rx (bytes : List Byte) (r : TxAnswer) : (s.pushTx bytes r).rx = s.rx := rfl
@[simp] theorem State.pushTx_cmdq (bytes : List Byte) (r : TxAnswer) : (s.pushTx bytes r).cmdq = s.cmdq := rfl
@[simp] theorem State.pushTx_nextTag (bytes : List Byte) (r : TxAnswer) : (s.pushTx bytes r).nextTag = s.nextTag := rfl
@[simp] theorem State.pushTx_pending (bytes : List Byte) (r : TxAnswer) : (s.pushTx bytes r).pending = s.pending := rfl
@[simp] theorem State.pushTx_waitq (bytes : List Byte) (r : TxAnswer) : (s.pushTx bytes r).waitq = s.waitq := rfl
@[simp] theorem State.pushTx_subs (bytes : List Byte) (r : TxAnswer) : (s.pushTx bytes r).subs = s.subs := rfl
@[simp] theorem State.pushTx_chan (bytes : List Byte) (r : TxAnswer) : (s.pushTx bytes r).chan = s.chan := rfl
@[simp] theorem State.pushTx_now (bytes : List Byte) (r : TxAnswer) : (s.pushTx bytes r).now = s.now := rfl
@[simp] theorem State.pushTx_txlog (bytes : List Byte) (r : TxAnswer) : (s.pushTx bytes r).txlog = s.txlog ++ [(bytes, r)] := rfl
@[simp] theorem State.pushTx_results (bytes : List Byte) (r : TxAnswer) : (s.pushTx bytes r).results = s.results := rfl
@[simp] theorem State.pushTx_notify (bytes : List Byte) (r : TxAnswer) : (s.pushTx bytes r).notify = s.notify := rfl
@[simp] theorem State.pushTx_events (bytes : List Byte) (r : TxAnswer) : (s.pushTx bytes r).events = s.events := rfl
@[simp] theorem State.pushTx_env (bytes : List Byte) (r : TxAnswer) : (s.pushTx bytes r).env = s.env := rfl

/-! `pushResult` -/

@[simp] theorem State.pushResult_conn (t : Tag) (o : OpOutcome) : (s.pushResult t o).conn = s.conn := rfl
@[simp] theorem State.pushResult_rx (t : Tag) (o : OpOutcome) : (s.pushResult t o).rx = s.rx := rfl
@[simp] theorem State.pushResult_cmdq (t : Tag) (o : OpOutcome) : (s.pushResult t o).cmdq = s.cmdq := rfl
@[simp] theorem State.pushResult_nextTag (t : Tag) (o : OpOutcome) : (s.pushResult t o).nextTag = s.nextTag := rfl
@[simp] theorem State.pushResult_pending (t : Tag) (o : OpOutcome) : (s.pushResult t o).pending = s.pending := rfl
@[simp] theorem State.pushResult_waitq (t : Tag) (o : OpOutcome) : (s.pushResult t o).waitq = s.waitq := rfl
@[simp] theorem State.pushResult_subs (t : Tag) (o : OpOutcome) : (s.pushResult t o).subs = s.subs := rfl
@[simp] theorem State.pushResult_chan (t : Tag) (o : OpOutcome) : (s.pushResult t o).chan = s.chan := rfl
@[simp] theorem State.pushResult_now (t : Tag) (o : OpOutcome) : (s.pushResult t o).now = s.now := rfl
@[simp] theorem State.pushResult_txlog (t : Tag) (o : OpOutcome) : (s.pushResult t o).txlog = s.txlog := rfl
@[simp] theorem State.pushResult_results (t : Tag) (o : OpOutcome) : (s.pushResult t o).results = s.results ++ [(t, o)] := rfl
@[simp] theorem State.pushResult_notify (t : Tag) (o : OpOutcome) : (s.pushResult t o).notify = s.notify := rfl
@[simp] theorem State.pushResult_events (t : Tag) (o : OpOutcome) : (s.pushResult t o).events = s.events := rfl
@[simp] theorem State.pushResult_env (t : Tag) (o : OpOutcome) : (s.pushResult t o).env = s.env := rfl

/-! `pushNotify` -/

@[simp] theorem State.pushNotify_conn (f : Frame) : (s.pushNotify f).conn = s.conn := rfl
@[simp] theorem State.pushNotify_rx (f : Frame) : (s.pushNotify f).rx = s.rx := rfl
@[simp] theorem State.pushNotify_cmdq (f : Frame) : (s.pushNotify f).cmdq = s.cmdq := rfl
@[simp] theorem State.pushNotify_nextTag (f : Frame) : (s.pushNotify f).nextTag = s.nextTag := rfl
@[simp] theorem State.pushNotify_pending (f : Frame) : (s.pushNotify f).pending = s.pending := rfl
@[simp] theorem State.pushNotify_waitq (f : Frame) : (s.pushNotify f).waitq = s.waitq := rfl
@[simp] theorem State.pushNotify_subs (f : Frame) : (s.pushNotify f).subs = s.subs := rfl
@[simp] theorem State.pushNotify_chan (f : Frame) : (s.pushNotify f).chan = s.chan := rfl
@[simp] theorem State.pushNotify_now (f : Frame) : (s.pushNotify f).now = s.now := rfl
@[simp] theorem State.pushNotify_txlog (f : Frame) : (s.pushNotify f).txlog = s.txlog := rfl
@[simp] theorem State.pushNotify_results (f : Frame) : (s.pushNotify f).results = s.results := rfl
@[simp] theorem State.pushNotify_notify (f : Frame) : (s.pushNotify f).notify = s.notify ++ [f] := rfl
@[simp] theorem State.pushNotify_events (f : Frame) : (s.pushNotify f).events = s.events := rfl
@[simp] theorem State.pushNotify_env (f : Frame) : (s.pushNotify f).env = s.env := rfl

/-! `pushEvent` -/

@[simp] theorem State.pushEvent_conn (e : LogEvent) : (s.pushEvent e).conn = s.conn := rfl
@[simp] theorem State.pushEvent_rx (e : LogEvent) : (s.pushEvent e).rx = s.rx := rfl
@[simp] theorem State.pushEvent_cmdq (e : LogEvent) : (s.pushEvent e).cmdq = s.cmdq := rfl
@[simp] theorem State.pushEvent_nextTag (e : LogEvent) : (s.pushEvent e).nextTag = s.nextTag := rfl
@[simp] theorem State.pushEvent_pending (e : LogEvent) : (s.pushEvent e).pending = s.pending := rfl
@[simp] theorem State.pushEvent_waitq (e : LogEvent) : (s.pushEvent e).waitq = s.waitq := rfl
@[simp] theorem State.pushEvent_subs (e : LogEvent) : (s.pushEvent e).subs = s.subs := rfl
@[simp] theorem State.pushEvent_chan (e : LogEvent) : (s.pushEvent e).chan = s.chan := rfl
@[simp] theorem State.pushEvent_now (e : LogEvent) : (s.pushEvent e).now = s.now := rfl
@[simp] theorem State.pushEvent_txlog (e : LogEvent) : (s.pushEvent e).txlog = s.txlog := rfl
@[simp] theorem State.pushEvent_results (e : LogEvent) : (s.pushEvent e).results = s.results := rfl
@[simp] theorem State.pushEvent_notify (e : LogEvent) : (s.pushEvent e).notify = s.notify := rfl
@[simp] theorem State.pushEvent_events (e : LogEvent) : (s.pushEvent e).events = s.events ++ [e] := rfl
@[simp] theorem State.pushEvent_env (e : LogEvent) : (s.pushEvent e).env = s.env := rfl

/-! `offer` and `answered` -/

@[simp] theorem State.offer_conn (e : Event) : (s.offer e).conn = s.conn := rfl
@[simp] theorem State.offer_rx (e : Event) : (s.offer e).rx = s.rx := rfl
@[simp] theorem State.offer_cmdq (e : Event) : (s.offer e).cmdq = s.cmdq := rfl
@[simp] theorem State.offer_nextTag (e : Event) : (s.offer e).nextTag = s.nextTag := rfl
@[simp] theorem State.offer_pending (e : Event) : (s.offer e).pending = s.pending := rfl
@[simp] theorem State.offer_waitq (e : Event) : (s.offer e).waitq = s.waitq := rfl
@[simp] theorem State.offer_subs (e : Event) : (s.offer e).subs = s.subs := rfl
@[simp] theorem State.offer_chan (e : Event) : (s.offer e).chan = s.chan := rfl
@[simp] theorem State.offer_now (e : Event) : (s.offer e).now = s.now := rfl
@[simp] theorem State.offer_txlog (e : Event) : (s.offer e).txlog = s.txlog := rfl
@[simp] theorem State.offer_results (e : Event) : (s.offer e).results = s.results := rfl
@[simp] theorem State.offer_notify (e : Event) : (s.offer e).notify = s.notify := rfl
@[simp] theorem State.offer_events (e : Event) : (s.offer e).events = s.events := rfl
@[simp] theorem State.offer_env (e : Event) : (s.offer e).env = { s.env with agenda := e :: s.env.agenda } := rfl
@[simp] theorem State.answered_conn : s.answered.conn = s.conn := rfl
@[simp] theorem State.answered_rx : s.answered.rx = s.rx := rfl
@[simp] theorem State.answered_cmdq : s.answered.cmdq = s.cmdq := rfl
@[simp] theorem State.answered_nextTag : s.answered.nextTag = s.nextTag := rfl
@[simp] theorem State.answered_pending : s.answered.pending = s.pending := rfl
@[simp] theorem State.answered_waitq : s.answered.waitq = s.waitq := rfl
@[simp] theorem State.answered_subs : s.answered.subs = s.subs := rfl
@[simp] theorem State.answered_chan : s.answered.chan = s.chan := rfl
@[simp] theorem State.answered_now : s.answered.now = s.now := rfl
@[simp] theorem State.answered_txlog : s.answered.txlog = s.txlog := rfl
@[simp] theorem State.answered_results : s.answered.results = s.results := rfl
@[simp] theorem State.answered_notify : s.answered.notify = s.notify := rfl
@[simp] theorem State.answered_events : s.answered.events = s.events := rfl
@[simp] theorem State.answered_env : s.answered.env = s.env.drawAnswer.2 := rfl

/-! Updates of one entry -/

@[simp] theorem State.setSub_conn (m : ModuleAddress) (v : Subscription) : (s.setSub m v).conn = s.conn := rfl
@[simp] theorem State.setSub_rx (m : ModuleAddress) (v : Subscription) : (s.setSub m v).rx = s.rx := rfl
@[simp] theorem State.setSub_cmdq (m : ModuleAddress) (v : Subscription) : (s.setSub m v).cmdq = s.cmdq := rfl
@[simp] theorem State.setSub_nextTag (m : ModuleAddress) (v : Subscription) : (s.setSub m v).nextTag = s.nextTag := rfl
@[simp] theorem State.setSub_pending (m : ModuleAddress) (v : Subscription) : (s.setSub m v).pending = s.pending := rfl
@[simp] theorem State.setSub_waitq (m : ModuleAddress) (v : Subscription) : (s.setSub m v).waitq = s.waitq := rfl
@[simp] theorem State.setSub_subs (m : ModuleAddress) (v : Subscription) : (s.setSub m v).subs = s.subs.set m.index v := rfl
@[simp] theorem State.setSub_chan (m : ModuleAddress) (v : Subscription) : (s.setSub m v).chan = s.chan := rfl
@[simp] theorem State.setSub_now (m : ModuleAddress) (v : Subscription) : (s.setSub m v).now = s.now := rfl
@[simp] theorem State.setSub_txlog (m : ModuleAddress) (v : Subscription) : (s.setSub m v).txlog = s.txlog := rfl
@[simp] theorem State.setSub_results (m : ModuleAddress) (v : Subscription) : (s.setSub m v).results = s.results := rfl
@[simp] theorem State.setSub_notify (m : ModuleAddress) (v : Subscription) : (s.setSub m v).notify = s.notify := rfl
@[simp] theorem State.setSub_events (m : ModuleAddress) (v : Subscription) : (s.setSub m v).events = s.events := rfl
@[simp] theorem State.setSub_env (m : ModuleAddress) (v : Subscription) : (s.setSub m v).env = s.env := rfl
@[simp] theorem State.updateChan_conn (m : ModuleAddress) (ch : Channel) (g : ChannelState → ChannelState) :
    (s.updateChan m ch g).conn = s.conn := rfl
@[simp] theorem State.updateChan_rx (m : ModuleAddress) (ch : Channel) (g : ChannelState → ChannelState) :
    (s.updateChan m ch g).rx = s.rx := rfl
@[simp] theorem State.updateChan_cmdq (m : ModuleAddress) (ch : Channel) (g : ChannelState → ChannelState) :
    (s.updateChan m ch g).cmdq = s.cmdq := rfl
@[simp] theorem State.updateChan_nextTag (m : ModuleAddress) (ch : Channel) (g : ChannelState → ChannelState) :
    (s.updateChan m ch g).nextTag = s.nextTag := rfl
@[simp] theorem State.updateChan_pending (m : ModuleAddress) (ch : Channel) (g : ChannelState → ChannelState) :
    (s.updateChan m ch g).pending = s.pending := rfl
@[simp] theorem State.updateChan_waitq (m : ModuleAddress) (ch : Channel) (g : ChannelState → ChannelState) :
    (s.updateChan m ch g).waitq = s.waitq := rfl
@[simp] theorem State.updateChan_subs (m : ModuleAddress) (ch : Channel) (g : ChannelState → ChannelState) :
    (s.updateChan m ch g).subs = s.subs := rfl
@[simp] theorem State.updateChan_chan (m : ModuleAddress) (ch : Channel) (g : ChannelState → ChannelState) :
    (s.updateChan m ch g).chan = chanSet s.chan ⟨m, ch⟩ (g (s.chanOf m ch)) := rfl
@[simp] theorem State.updateChan_now (m : ModuleAddress) (ch : Channel) (g : ChannelState → ChannelState) :
    (s.updateChan m ch g).now = s.now := rfl
@[simp] theorem State.updateChan_txlog (m : ModuleAddress) (ch : Channel) (g : ChannelState → ChannelState) :
    (s.updateChan m ch g).txlog = s.txlog := rfl
@[simp] theorem State.updateChan_results (m : ModuleAddress) (ch : Channel) (g : ChannelState → ChannelState) :
    (s.updateChan m ch g).results = s.results := rfl
@[simp] theorem State.updateChan_notify (m : ModuleAddress) (ch : Channel) (g : ChannelState → ChannelState) :
    (s.updateChan m ch g).notify = s.notify := rfl
@[simp] theorem State.updateChan_events (m : ModuleAddress) (ch : Channel) (g : ChannelState → ChannelState) :
    (s.updateChan m ch g).events = s.events := rfl
@[simp] theorem State.updateChan_env (m : ModuleAddress) (ch : Channel) (g : ChannelState → ChannelState) :
    (s.updateChan m ch g).env = s.env := rfl

/-! The answer to a write does not depend on the other updates -/

@[simp] theorem State.setConn_nextAnswer (v : Conn) : (s.setConn v).nextAnswer = s.nextAnswer := rfl
@[simp] theorem State.setRx_nextAnswer (v : List Byte) : (s.setRx v).nextAnswer = s.nextAnswer := rfl
@[simp] theorem State.setCmdq_nextAnswer (v : List (Tag × Op)) : (s.setCmdq v).nextAnswer = s.nextAnswer := rfl
@[simp] theorem State.setNextTag_nextAnswer (v : Tag) : (s.setNextTag v).nextAnswer = s.nextAnswer := rfl
@[simp] theorem State.setPending_nextAnswer (v : List (Tag × Pending)) : (s.setPending v).nextAnswer = s.nextAnswer := rfl
@[simp] theorem State.setWaitq_nextAnswer (v : List (BusyKey × List Deferred)) : (s.setWaitq v).nextAnswer = s.nextAnswer := rfl
@[simp] theorem State.setSubs_nextAnswer (v : Vector Subscription 13) : (s.setSubs v).nextAnswer = s.nextAnswer := rfl
@[simp] theorem State.setChan_nextAnswer (v : List (ChanKey × ChannelState)) : (s.setChan v).nextAnswer = s.nextAnswer := rfl
@[simp] theorem State.setNow_nextAnswer (v : Ticks) : (s.setNow v).nextAnswer = s.nextAnswer := rfl
@[simp] theorem State.pushTx_nextAnswer (bytes : List Byte) (r : TxAnswer) : (s.pushTx bytes r).nextAnswer = s.nextAnswer := rfl
@[simp] theorem State.pushResult_nextAnswer (t : Tag) (o : OpOutcome) : (s.pushResult t o).nextAnswer = s.nextAnswer := rfl
@[simp] theorem State.pushNotify_nextAnswer (f : Frame) : (s.pushNotify f).nextAnswer = s.nextAnswer := rfl
@[simp] theorem State.pushEvent_nextAnswer (e : LogEvent) : (s.pushEvent e).nextAnswer = s.nextAnswer := rfl

end Sys2Proof.Machine
end

