-- ==== Sys2Proof/Laws/Ops.lean ====
section
/-! SUPPORT. One lemma per shared operation that says once what it can do: `send`, `issue`, `finish`, closing, the cache
updater, dispatch, the meanings and the step. -/

namespace Sys2Proof.Machine

variable {cfg : Cfg} {s : State}

/-! ### The step -/

/-- An event that the environment brings about next is performed on the state as it stands. -/
@[simp] theorem step_offer (e : Event) (s : State) : step (s.offer e) = perform Config.cfg (deframe exec) e s := rfl

theorem step_eq_perform (s : State) :
    step s = perform Config.cfg (deframe exec) s.env.drawEvent.1 (s.setEnv s.env.drawEvent.2) := rfl

@[simp] theorem perform_accept (op : Op) (run : State → Host.Outcome State Fault Refusal) :
    perform cfg run (.accept op) s = .next (accept op s) := rfl

@[simp] theorem perform_process (run : State → Host.Outcome State Fault Refusal) :
    perform cfg run .process s = .next (process cfg s) := rfl

@[simp] theorem perform_receive (bs : List Byte) (run : State → Host.Outcome State Fault Refusal) :
    perform cfg run (.receive bs) s = .next (receiveBytes bs s) := rfl

@[simp] theorem perform_deframe (run : State → Host.Outcome State Fault Refusal) :
    perform cfg run .deframe s = run s := rfl

@[simp] theorem perform_tick (t : Ticks) (run : State → Host.Outcome State Fault Refusal) :
    perform cfg run (.tick t) s = .next (tick t s) := rfl

@[simp] theorem perform_expire (t : Tag) (run : State → Host.Outcome State Fault Refusal) :
    perform cfg run (.expire t) s = .next (expire cfg t s) := rfl

@[simp] theorem perform_close (run : State → Host.Outcome State Fault Refusal) :
    perform cfg run .close s = .next (close s) := rfl

@[simp] theorem perform_reconnect (run : State → Host.Outcome State Fault Refusal) :
    perform cfg run .reconnect s = .next (reconnect s) := rfl

/-- Everything `deframe` can do. -/
theorem deframe_cases (run : Instr → State → Host.Outcome State Fault Refusal) (s : State) :
    (∃ id, s.conn = .opened ∧ fetch s.rx = .unknown id ∧
      deframe run s = .next ((s.setRx s.rx.tail).pushEvent (.decodeError (.unknownMessageId id) 1))) ∨
    (∃ i rest, s.conn = .opened ∧ fetch s.rx = .frame i rest ∧ deframe run s = run i (s.setRx rest)) ∨
    ((s.conn = .closed ∨ fetch s.rx = .wait) ∧ deframe run s = .next s) := by
  unfold deframe
  cases hc : s.conn <;> cases hf : fetch s.rx <;> simp

theorem deframe_of_unknown (run : Instr → State → Host.Outcome State Fault Refusal) {id : MsgId}
    (hc : s.conn = .opened) (hf : fetch s.rx = .unknown id) :
    deframe run s = .next ((s.setRx s.rx.tail).pushEvent (.decodeError (.unknownMessageId id) 1)) := by
  unfold deframe; rw [hc, hf]

theorem deframe_of_frame (run : Instr → State → Host.Outcome State Fault Refusal) {i : Instr} {rest : List Byte}
    (hc : s.conn = .opened) (hf : fetch s.rx = .frame i rest) : deframe run s = run i (s.setRx rest) := by
  unfold deframe; rw [hc, hf]

theorem receiveBytes_of_opened (bs : List Byte) (h : s.conn = .opened) :
    receiveBytes bs s = s.setRx (s.rx ++ bs) := by
  unfold receiveBytes; rw [h]

theorem receiveBytes_of_closed (bs : List Byte) (h : s.conn = .closed) : receiveBytes bs s = s := by
  unfold receiveBytes; rw [h]

theorem close_of_opened (h : s.conn = .opened) : close s = doClose .streamClosed s := by
  unfold close; rw [h]

theorem close_of_closed (h : s.conn = .closed) : close s = s := by
  unfold close; rw [h]

/-! ### Processing a command -/

theorem process_command {tag : Tag} {c : Command} {rest : List (Tag × Op)} (h : s.cmdq = (tag, .command c) :: rest) :
    process cfg s = runCommand cfg tag c (s.setCmdq rest) := by
  unfold process; rw [h]

theorem process_cancel {tag target : Tag} {rest : List (Tag × Op)} (h : s.cmdq = (tag, .cancel target) :: rest) :
    process cfg s = doCancel cfg tag target (s.setCmdq rest) := by
  unfold process; rw [h]

theorem runCommand_of_input_error (tag : Tag) {c : Command} {e : OpError} (h : checkInputs cfg (c.row cfg) = .error e) :
    runCommand cfg tag c s = s.pushResult tag (.err e.code) := by
  unfold runCommand; rw [h]

theorem runCommand_of_closed (tag : Tag) {c : Command} {m : ModuleAddress} (h : checkInputs cfg (c.row cfg) = .ok m)
    (hc : s.conn = .closed) : runCommand cfg tag c s = s.pushResult tag (.err .transportError) := by
  unfold runCommand; rw [h]; exact if_pos hc

theorem runCommand_of_encode_error (tag : Tag) {c : Command} {m : ModuleAddress} {e : OpError}
    (h : checkInputs cfg (c.row cfg) = .ok m) (hc : s.conn = .opened)
    (he : (c.row cfg).encoded cfg = .error e) :
    runCommand cfg tag c s = s.pushResult tag (.err e.code) := by
  unfold runCommand; simp only [h, hc, he, reduceCtorEq, if_false]

theorem runCommand_fire (tag : Tag) {c : Command} {m : ModuleAddress} {bytes : List Byte}
    (h : checkInputs cfg (c.row cfg) = .ok m) (hc : s.conn = .opened)
    (he : (c.row cfg).encoded cfg = .ok bytes) (hf : (c.row cfg).requestKey m = none) :
    runCommand cfg tag c s = doFire tag c m bytes s := by
  unfold runCommand; simp only [h, hc, he, hf, reduceCtorEq, if_false]

theorem runCommand_request (tag : Tag) {c : Command} {m : ModuleAddress} {bytes : List Byte} {key : BusyKey}
    (h : checkInputs cfg (c.row cfg) = .ok m) (hc : s.conn = .opened)
    (he : (c.row cfg).encoded cfg = .ok bytes)
    (hf : (c.row cfg).requestKey m = some key) :
    runCommand cfg tag c s = doRequest cfg key tag c bytes s := by
  unfold runCommand; simp only [h, hc, he, hf, reduceCtorEq, if_false]

theorem busy_iff (s : State) (key : BusyKey) : s.busy key = true ↔ ∃ e ∈ s.pending, e.2.key = key := by
  simp [State.busy]

/-! ### Writing to the transport -/

theorem send_of_ok (bytes : List Byte) (h : s.nextAnswer = .ok) : send bytes s = (.ok, s.answered.pushTx bytes .ok) := by
  simp [send, h]

theorem send_of_error (bytes : List Byte) (h : s.nextAnswer = .error) :
    send bytes s = (.error, doClose .writeError (s.answered.pushTx bytes .error)) := by
  simp [send, h]

theorem issue_of_ok (key : BusyKey) (t : Tag) (c : Command) (bytes : List Byte) (h : s.nextAnswer = .ok) :
    issue cfg key t c bytes s =
      (s.answered.pushTx bytes .ok).setPending (FMap.put id s.pending t (newPending cfg key c s.now)) := by
  simp [issue, send_of_ok bytes h]

theorem issue_of_error (key : BusyKey) (t : Tag) (c : Command) (bytes : List Byte) (h : s.nextAnswer = .error) :
    issue cfg key t c bytes s =
      (doClose .writeError (s.answered.pushTx bytes .error)).pushResult t (.err .transportError) := by
  simp [issue, send_of_error bytes h]

/-! ### Closing -/

theorem mem_insertTag (t x : Tag) (l : List Tag) : x ∈ insertTag t l ↔ x = t ∨ x ∈ l := by
  induction l with
  | nil => simp [insertTag]
  | cons y l ih =>
    simp only [insertTag]
    split
    · simp
    · split
      · subst t; simp
      · simp only [List.mem_cons, ih]; tauto

theorem insertTag_rising {l : List Tag} (h : l.Pairwise (· < ·)) (t : Tag) : (insertTag t l).Pairwise (· < ·) := by
  induction l with
  | nil => simp [insertTag]
  | cons y l ih =>
    have h' := List.pairwise_cons.1 h
    simp only [insertTag]
    split
    · rename_i hlt
      refine List.pairwise_cons.2 ⟨fun x hx => ?_, h⟩
      rcases List.mem_cons.1 hx with rfl | hx
      · exact hlt
      · exact Nat.lt_trans hlt (h'.1 x hx)
    · split
      · exact h
      · rename_i h1 h2
        refine List.pairwise_cons.2 ⟨fun x hx => ?_, ih h'.2⟩
        rcases (mem_insertTag t x l).1 hx with rfl | hx
        · exact Nat.lt_of_le_of_ne (Nat.le_of_not_lt h1) fun e => h2 e.symm
        · exact h'.1 x hx

theorem mem_sortTags (x : Tag) (l : List Tag) : x ∈ sortTags l ↔ x ∈ l := by
  induction l with
  | nil => simp [sortTags]
  | cons y l ih => simp [sortTags, mem_insertTag, ih]

theorem sortTags_rising (l : List Tag) : (sortTags l).Pairwise (· < ·) := by
  induction l with
  | nil => simp [sortTags]
  | cons y l ih => exact insertTag_rising ih y

theorem disconnectAll_eq (tags : List Tag) (s : State) :
    disconnectAll tags s = { s with results := s.results ++ tags.map fun t => (t, .err .disconnected) } := by
  induction tags generalizing s with
  | nil => simp [disconnectAll]
  | cons t tags ih =>
    show disconnectAll tags (s.pushResult t (.err .disconnected)) = _
    rw [ih]
    simp [State.pushResult]

theorem flushRx_eq (s : State) :
    flushRx s =
      { s with rx := [], events := s.events ++ (if s.rx = [] then [] else [.truncatedAtClose s.rx.length]) } := by
  obtain ⟨conn, rx, cmdq, nextTag, pending, waitq, subs, chan, now, txlog, results, notify, events, env⟩ := s
  cases rx <;> simp [flushRx, State.pushEvent, State.setRx]

/-- What `doClose` makes of every field. -/
theorem doClose_eq (r : CloseReason) (s : State) :
    doClose r s =
      { s with conn := .closed, rx := [], pending := [], waitq := [], subs := Vector.replicate 13 .unsubscribed,
               chan := chanMap (fun _ => true) ChannelState.forget s.chan,
               results := s.results ++ s.inFlight.map (fun t => (t, .err .disconnected)),
               events := s.events ++ (if s.rx = [] then [] else [.truncatedAtClose s.rx.length]) ++
                 [.transportError r] } := by
  simp only [doClose, flushRx_eq, disconnectAll_eq]
  rfl

/-! ### Ending a pending transaction -/

theorem waiting_waitSet (w : List (BusyKey × List Deferred)) (key key' : BusyKey) (l : List Deferred) :
    (FMap.get? (waitSet w key l) key').getD [] = if key = key' then l else (FMap.get? w key').getD [] := by
  unfold waitSet
  split
  · rename_i h
    rw [FMap.get?_del]
    split <;> simp_all
  · rw [FMap.get?_put]
    split <;> simp_all

theorem rising_waitSet {w : List (BusyKey × List Deferred)} (h : FMap.Rising BusyKey.rank w) (key : BusyKey)
    (l : List Deferred) : FMap.Rising BusyKey.rank (waitSet w key l) := by
  unfold waitSet
  split
  · exact FMap.rising_del h key
  · exact FMap.rising_put BusyKey.rank_injective h key l

theorem finish_of_nothing_waiting (t : Tag) (p : Pending) (o : OpOutcome) (h : s.waiting p.key = []) :
    finish cfg t p o s = (s.setPending (FMap.del s.pending t)).pushResult t o := by
  have h' : ((s.setPending (FMap.del s.pending t)).pushResult t o).waiting p.key = [] := h
  unfold finish issueNext
  rw [h']
  split <;> simp_all

theorem finish_of_waiting (t : Tag) (p : Pending) (o : OpOutcome) {d : Deferred} {rest : List Deferred}
    (hc : s.conn = .opened) (h : s.waiting p.key = d :: rest) :
    finish cfg t p o s = issue cfg p.key d.tag d.op d.bytes
      (((s.setPending (FMap.del s.pending t)).pushResult t o).setWaitq (waitSet s.waitq p.key rest)) := by
  have h' : ((s.setPending (FMap.del s.pending t)).pushResult t o).waiting p.key = d :: rest := h
  have hc' : ((s.setPending (FMap.del s.pending t)).pushResult t o).conn = .opened := hc
  unfold finish issueNext
  rw [h', hc']
  rfl

theorem complete_of_get? {t : Tag} {p : Pending} (o : OpOutcome) (h : FMap.get? s.pending t = some p) :
    complete cfg t o s = finish cfg t p o s := by simp [complete, h]

/-! ### The cache updater and dispatch -/

/-- The cache updater changes the channel file alone. -/
theorem updateChannel_eq_setChan (k : Kind) (eff : Effect) (f : Frame) (p : Option Pending) (s : State) :
    updateChannel cfg k eff f p s = s.setChan (updateChannel cfg k eff f p s).chan := by
  cases eff with
  | nothing => rfl
  | perChannel g =>
    simp only [updateChannel]
    split <;> rfl
  | moduleWide g => rfl

/-- A per-channel effect on the channel the frame is about. -/
theorem chanOf_updateChannel_perChannel {k : Kind} {g : Frame → ChannelState → ChannelState} {f : Frame}
    {p : Option Pending} {ch : Channel} (h : channelOf cfg k f p = some ch) (m' : ModuleAddress) (ch' : Channel) :
    (updateChannel cfg k (.perChannel g) f p s).chanOf m' ch' =
      if f.source = m' ∧ ch = ch' then g f (s.chanOf f.source ch) else s.chanOf m' ch' := by
  simp only [updateChannel, h]
  exact State.chanOf_updateChan s f.source m' ch ch' (g f)

/-- A per-channel effect for a frame that names no channel. -/
theorem updateChannel_perChannel_of_none {k : Kind} {g : Frame → ChannelState → ChannelState} {f : Frame}
    {p : Option Pending} (h : channelOf cfg k f p = none) : updateChannel cfg k (.perChannel g) f p s = s := by
  simp only [updateChannel, h]

/-- A module-wide effect on every channel. -/
theorem chanOf_updateChannel_moduleWide {k : Kind} {g : ChannelState → ChannelState} {f : Frame} {p : Option Pending}
    (hs : ChanFile.wf s.chan) (hg : g ChannelState.init = ChannelState.init) (m' : ModuleAddress) (ch' : Channel) :
    (updateChannel cfg k (.moduleWide g) f p s).chanOf m' ch' =
      if m' = f.source then g (s.chanOf m' ch') else s.chanOf m' ch' := by
  have h : (updateChannel cfg k (.moduleWide g) f p s).chanOf m' ch' =
      chanGet (chanMap (fun key => key.module == f.source) g s.chan) ⟨m', ch'⟩ := rfl
  rw [h, chanGet_chanMap hs.1 _ hg]
  simp only [beq_iff_eq]
  rfl

/-- The channel that an identifier is found to name. -/
theorem chanOfIdent_spec {v : Nat} {ch : Channel} (h : chanOfIdent cfg v = some ch) : NamesChannel cfg v ch := by
  obtain ⟨e, he, rfl⟩ := Option.map_eq_some_iff.1 h
  have := List.find?_some he
  simpa [channelInRange, NamesChannel] using this

/-- Under the default codes an identifier names at most one channel, and that one is found. -/
theorem chanOfIdent_eq_some_iff {p : Params} {v : Nat} {ch : Channel} :
    chanOfIdent p.withDefaults v = some ch ↔ NamesChannel p.withDefaults v ch := by
  refine ⟨chanOfIdent_spec, fun ⟨h1, h2, h3⟩ => ?_⟩
  have h3 : ch ≤ p.numChannels := h3
  obtain ⟨e, he, rfl⟩ := Option.map_eq_some_iff.1 h1
  have hmem := List.mem_of_find?_eq_some he
  have hch : e.1 = ch := by simpa using List.find?_some he
  subst hch
  simp only [Params.withDefaults, List.mem_cons, List.not_mem_nil, or_false] at hmem
  rcases hmem with rfl | rfl | rfl | rfl <;>
    simp_all [chanOfIdent, Params.withDefaults, Cfg.chanIdent, channelInRange, List.find?_cons]

theorem chanOfIdent_eq_none {v : Nat} (h : ∀ ch, ¬NamesChannel cfg v ch) : chanOfIdent cfg v = none := by
  cases hf : chanOfIdent cfg v with
  | none => rfl
  | some c => exact absurd (chanOfIdent_spec hf) (h c)

theorem answeredBy_iff (p : Pending) (f : Frame) : p.answeredBy f = true ↔ f.id ∈ p.respIds ∧ f.source = p.dest := by
  simp [Pending.answeredBy]

/-- No entry answers an unsolicited frame. -/
theorem matching_of_unsolicited {f : Frame} (h : s.Unsolicited f) : s.matching f = none := by
  rw [State.matching, List.find?_eq_none]
  intro e he
  rw [answeredBy_iff]
  exact h e he

/-- The entry that answers a frame, in the canonical form of the pending table. -/
theorem matching_of_answers {f : Frame} {t : Tag} {p : Pending} (hr : FMap.Rising id s.pending)
    (h : s.Answers f t p) : s.matching f = some (t, p) := by
  obtain ⟨hmem, hid, hsrc, hmin⟩ := h
  have ha : p.answeredBy f = true := (answeredBy_iff p f).2 ⟨hid, hsrc⟩
  unfold State.matching
  revert hr hmem hmin
  generalize s.pending = l
  intro hr hmem hmin
  induction l with
  | nil => simp at hmem
  | cons e l ih =>
    rw [FMap.Rising, List.pairwise_cons] at hr
    rcases List.mem_cons.1 hmem with rfl | hmem
    · simp [ha]
    · have hlt := hr.1 _ hmem
      have hne : ¬(e.2.answeredBy f = true) := fun he => by
        have := (answeredBy_iff _ _).1 he
        exact absurd (hmin e (by simp) this.1 this.2) (Nat.not_le_of_lt hlt)
      simp only [List.find?_cons, hne]
      exact ih hr.2 hmem fun e he => hmin e (by simp [he])

theorem mem_of_matching {f : Frame} {t : Tag} {p : Pending} (h : s.matching f = some (t, p)) :
    (t, p) ∈ s.pending ∧ f.id ∈ p.respIds ∧ f.source = p.dest := by
  unfold State.matching at h
  exact ⟨List.mem_of_find?_eq_some h, (answeredBy_iff p f).1 (by simpa using List.find?_some h)⟩

theorem dispatch_of_unsolicited {k : Kind} {eff : Effect} {f : Frame} (h : s.Unsolicited f) :
    dispatch cfg k eff f s = (updateChannel cfg k eff f none s).pushNotify f := by
  simp only [dispatch, matching_of_unsolicited h]

theorem dispatch_of_answers {k : Kind} {eff : Effect} {f : Frame} {t : Tag} {p : Pending}
    (hr : FMap.Rising id s.pending) (h : s.Answers f t p) :
    dispatch cfg k eff f s = finish cfg t p (.reply f) (updateChannel cfg k eff f (some p) s) := by
  simp only [dispatch, matching_of_answers hr h]
  apply complete_of_get?
  rw [updateChannel_eq_setChan]
  exact FMap.get?_of_mem hr h.1

theorem receiveFrame_of_ok {k : Kind} {eff : Effect} {raw : RawFrame} {f : Frame} (h : checkRaw k raw = .ok f) :
    receiveFrame cfg k eff raw s = .next (dispatch cfg k eff f s) := by
  simp only [receiveFrame, h]

theorem receiveFrame_of_error {k : Kind} {eff : Effect} {raw : RawFrame} {e : DecodeError}
    (h : checkRaw k raw = .error e) :
    receiveFrame cfg k eff raw s = .next (s.pushEvent (.decodeError e raw.length)) := by
  simp only [receiveFrame, h]

/-! ### The meanings -/

/-- The effect each instruction's meaning has on the channel file: that of its kind. -/
def Instr.effect (i : Instr) : Effect := kindEffect Config.cfg i.kind

/-- Every meaning is the shared reception of a frame with the instruction's own kind, effect and operand bytes. -/
theorem exec_eq_receiveFrame (i : Instr) (s : State) :
    exec i s = receiveFrame Config.cfg i.kind (Instr.effect i) i.raw s := by
  cases i <;> rfl

/-- A module-wide effect keeps a channel that is at `ChannelState.init`. -/
theorem effect_moduleWide_init {k : Kind} {g : ChannelState → ChannelState} (h : kindEffect cfg k = .moduleWide g) :
    g ChannelState.init = ChannelState.init := by
  unfold kindEffect at h
  repeat' split at h
  all_goals
    simp only [cacheEffect, enableReportEffect, homedEffect, completedEffect, stoppedEffect, disconnectEffect,
      errorReportEffect, reduceCtorEq, Effect.moduleWide.injEq] at h
  all_goals subst h; rfl

/-! ### The default configuration -/

/-- The cut of the stream by the opcode table is the cut by the default catalogue. -/
theorem cut_catalogue (B : List Byte) :
    cut catalogue B =
      match fetch B with
      | .wait => .wait
      | .unknown id => .unknown id
      | .frame i rest => .frame i.kind i.raw rest := by
  unfold cut fetch
  split
  · rename_i b0 b1 B2
    rw [lookup_catalogue]
    cases hr : lookupRow (le16 b0 b1) with
    | none => rfl
    | some row =>
      have hb := rows_build row (lookupRow_spec hr).1
      simp only [Option.map_some]
      split
      · rename_i b2 b3 b4 b5 tail
        revert hb
        cases hm : row.build with
        | fixed make =>
          rintro ⟨hs, -, hk⟩
          simp only [hs, (hk b2 b3 b4 b5).1, (hk b2 b3 b4 b5).2]
        | variableLen make =>
          rintro ⟨hs, -, hk⟩
          simp only [hs]
          split
          · simp only [(hk _ _ _).1, (hk _ _ _).2]
          · rfl
      · rfl
  · rfl

/-- The machine that runs instructions is the block of the default configuration. -/
theorem step_eq_stepIn (s : State) : step s = stepIn Config.cfg s := by
  have h : ∀ s, deframe exec s = deframeIn Config.cfg s := by
    intro s
    have hc : cut Config.cfg.catalogue s.rx = _ := cut_catalogue s.rx
    unfold deframe deframeIn
    rw [hc]
    cases s.conn <;> cases fetch s.rx <;> simp only [exec_eq_receiveFrame, Instr.effect]
  unfold step stepIn
  congr 1
  exact funext h

end Sys2Proof.Machine
end

