-- ==== Sys2Proof/Laws/Engine.lean ====
section
/-! SUPPORT. Laws of the checks, the encoding of host operations, the deferred requests, and how many places hold a
tag. -/

namespace Sys2Proof

open Machine

/-! ### The checks before any I/O (R203) -/

/-- What `checkInputs` accepts: the destination is a module other than the Host. -/
theorem checkInputs_dest {cfg : Cfg} {r : CommandRow} {m : ModuleAddress} (h : checkInputs cfg r = .ok m) :
    validate r.dest = some m ∧ m ≠ .host := by
  unfold checkInputs at h
  split at h
  · simp at h
  · rename_i a ha
    split at h
    · simp at h
    · rename_i hh
      have : m = a := by (repeat' split at h) <;> simp_all
      subst this
      exact ⟨ha, fun h' => hh (by rw [h']; rfl)⟩

/-- What `checkInputs` accepts: the channel, where there is one, passes its check. -/
theorem checkInputs_channelError {cfg : Cfg} {r : CommandRow} {m : ModuleAddress} (h : checkInputs cfg r = .ok m) :
    channelError cfg r.ch = none := by
  unfold checkInputs at h
  split at h
  · simp at h
  · split at h
    · simp at h
    · split at h
      · simp at h
      · assumption

/-- What `checkInputs` accepts: the channel, where there is one, is in range and has an identifier. -/
theorem checkInputs_channel {cfg : Cfg} {r : CommandRow} {m : ModuleAddress} (h : checkInputs cfg r = .ok m)
    {ch : Channel} (hch : r.ch = some ch) : (1 ≤ ch ∧ ch ≤ cfg.numChannels) ∧ ∃ v, cfg.chanIdent ch = some v := by
  have he := checkInputs_channelError h
  rw [hch] at he
  by_cases hr : channelInRange cfg ch = true
  · refine ⟨by simpa [channelInRange] using hr, ?_⟩
    cases hv : cfg.chanIdent ch with
    | none => simp [channelError, hr, hv] at he
    | some v => exact ⟨v, rfl⟩
  · simp [channelError, hr] at he

theorem channelError_eq_none {cfg : Cfg} {ch : Option Channel}
    (h : ∀ c, ch = some c → 1 ≤ c ∧ c ≤ cfg.numChannels ∧ cfg.chanIdent c ≠ none) : channelError cfg ch = none := by
  unfold channelError
  split
  · rfl
  · rename_i c
    obtain ⟨h1, h2, h3⟩ := h c rfl
    rw [if_neg (by simp [channelInRange, h1, h2]), if_neg h3]

theorem bayError_eq_none {args : CommandArgs} (h : ∀ b, args = .bay b → b.toNat < 10) : bayError args = none := by
  unfold bayError
  split
  · rename_i b
    have := h b rfl
    rw [if_neg (by simp only [numBays]; omega)]
  · rfl

theorem timeoutError_eq_none {cfg : Cfg} {r : CommandRow}
    (h : ∀ limit, r.cls = .request limit → 1 ≤ limit.getD cfg.defaultTimeout) : timeoutError cfg r = none := by
  unfold timeoutError
  split
  · rfl
  · rename_i limit hl
    have := h _ hl
    rw [if_neg]
    unfold CommandRow.timeout
    rw [hl]
    cases limit <;> exact Nat.not_lt.2 this

/-! ### The encoding of a command (R122, R123) -/

/-! The kind of each name in the default catalogue. -/

@[simp] theorem standard_modIdentify : KindName.standard .modIdentify = kindModIdentify := rfl
@[simp] theorem standard_modSetChanenablestate : KindName.standard .modSetChanenablestate = kindModSetChanenablestate := rfl
@[simp] theorem standard_modReqChanenablestate : KindName.standard .modReqChanenablestate = kindModReqChanenablestate := rfl
@[simp] theorem standard_modGetChanenablestate : KindName.standard .modGetChanenablestate = kindModGetChanenablestate := rfl
@[simp] theorem standard_hwDisconnect : KindName.standard .hwDisconnect = kindHwDisconnect := rfl
@[simp] theorem standard_hwResponse : KindName.standard .hwResponse = kindHwResponse := rfl
@[simp] theorem standard_hwRichresponse : KindName.standard .hwRichresponse = kindHwRichresponse := rfl
@[simp] theorem standard_hwStartUpdatemsgs : KindName.standard .hwStartUpdatemsgs = kindHwStartUpdatemsgs := rfl
@[simp] theorem standard_hwStopUpdatemsgs : KindName.standard .hwStopUpdatemsgs = kindHwStopUpdatemsgs := rfl
@[simp] theorem standard_hwReqInfo : KindName.standard .hwReqInfo = kindHwReqInfo := rfl
@[simp] theorem standard_hwGetInfo : KindName.standard .hwGetInfo = kindHwGetInfo := rfl
@[simp] theorem standard_rackReqBayused : KindName.standard .rackReqBayused = kindRackReqBayused := rfl
@[simp] theorem standard_rackGetBayused : KindName.standard .rackGetBayused = kindRackGetBayused := rfl
@[simp] theorem standard_hubReqBayused : KindName.standard .hubReqBayused = kindHubReqBayused := rfl
@[simp] theorem standard_hubGetBayused : KindName.standard .hubGetBayused = kindHubGetBayused := rfl
@[simp] theorem standard_motSetVelparams : KindName.standard .motSetVelparams = kindMotSetVelparams := rfl
@[simp] theorem standard_motReqVelparams : KindName.standard .motReqVelparams = kindMotReqVelparams := rfl
@[simp] theorem standard_motGetVelparams : KindName.standard .motGetVelparams = kindMotGetVelparams := rfl
@[simp] theorem standard_motSetJogparams : KindName.standard .motSetJogparams = kindMotSetJogparams := rfl
@[simp] theorem standard_motReqJogparams : KindName.standard .motReqJogparams = kindMotReqJogparams := rfl
@[simp] theorem standard_motGetJogparams : KindName.standard .motGetJogparams = kindMotGetJogparams := rfl
@[simp] theorem standard_motSetLimswitchparams : KindName.standard .motSetLimswitchparams = kindMotSetLimswitchparams := rfl
@[simp] theorem standard_motReqLimswitchparams : KindName.standard .motReqLimswitchparams = kindMotReqLimswitchparams := rfl
@[simp] theorem standard_motGetLimswitchparams : KindName.standard .motGetLimswitchparams = kindMotGetLimswitchparams := rfl
@[simp] theorem standard_motReqAdcinputs : KindName.standard .motReqAdcinputs = kindMotReqAdcinputs := rfl
@[simp] theorem standard_motGetAdcinputs : KindName.standard .motGetAdcinputs = kindMotGetAdcinputs := rfl
@[simp] theorem standard_motSetHomeparams : KindName.standard .motSetHomeparams = kindMotSetHomeparams := rfl
@[simp] theorem standard_motReqHomeparams : KindName.standard .motReqHomeparams = kindMotReqHomeparams := rfl
@[simp] theorem standard_motGetHomeparams : KindName.standard .motGetHomeparams = kindMotGetHomeparams := rfl
@[simp] theorem standard_motMoveHome : KindName.standard .motMoveHome = kindMotMoveHome := rfl
@[simp] theorem standard_motMoveHomed : KindName.standard .motMoveHomed = kindMotMoveHomed := rfl
@[simp] theorem standard_motSetMoverelparams : KindName.standard .motSetMoverelparams = kindMotSetMoverelparams := rfl
@[simp] theorem standard_motReqMoverelparams : KindName.standard .motReqMoverelparams = kindMotReqMoverelparams := rfl
@[simp] theorem standard_motGetMoverelparams : KindName.standard .motGetMoverelparams = kindMotGetMoverelparams := rfl
@[simp] theorem standard_motMoveRelative : KindName.standard .motMoveRelative = kindMotMoveRelative := rfl
@[simp] theorem standard_motSetMoveabsparams : KindName.standard .motSetMoveabsparams = kindMotSetMoveabsparams := rfl
@[simp] theorem standard_motReqMoveabsparams : KindName.standard .motReqMoveabsparams = kindMotReqMoveabsparams := rfl
@[simp] theorem standard_motGetMoveabsparams : KindName.standard .motGetMoveabsparams = kindMotGetMoveabsparams := rfl
@[simp] theorem standard_motMoveAbsolute : KindName.standard .motMoveAbsolute = kindMotMoveAbsolute := rfl
@[simp] theorem standard_motMoveVelocity : KindName.standard .motMoveVelocity = kindMotMoveVelocity := rfl
@[simp] theorem standard_motMoveCompleted : KindName.standard .motMoveCompleted = kindMotMoveCompleted := rfl
@[simp] theorem standard_motMoveStop : KindName.standard .motMoveStop = kindMotMoveStop := rfl
@[simp] theorem standard_motMoveStopped : KindName.standard .motMoveStopped = kindMotMoveStopped := rfl
@[simp] theorem standard_motMoveJog : KindName.standard .motMoveJog = kindMotMoveJog := rfl

/-- The kind of a name under the default catalogue. -/
theorem kindNamed_of_catalogue {cfg : Cfg} (h : cfg.catalogue = catalogue) (name : KindName) :
    cfg.kindNamed name = name.standard := by
  simp only [Cfg.kindNamed, KindName.standard, h]
  cases named catalogue name <;> rfl

@[simp] theorem kindNamed_withDefaults (p : Params) (name : KindName) : p.withDefaults.kindNamed name = name.standard :=
  kindNamed_of_catalogue rfl name

/-- An operation sends the kind of its name. -/
theorem row_kind (cfg : Cfg) (c : Command) : (c.row cfg).kind = cfg.kindNamed c.kindName := by
  cases c <;> rfl

/-- The kind of a host operation is a kind of the default catalogue. -/
theorem standard_mem_catalogue (c : Command) : c.kindName.standard ∈ catalogue := by
  cases c <;> simp only [Command.kindName] <;> decide +kernel

/-- Under the default catalogue every operation's kind is registered, and its frame is the kind's encoding. -/
theorem encoded_of_catalogue {cfg : Cfg} (h : cfg.catalogue = catalogue) (c : Command) :
    (c.row cfg).encoded cfg =
      encodeFrame catalogue (c.row cfg).kind.id (c.row cfg).dest hostAddr ((c.row cfg).fields cfg) := by
  have hn : (named cfg.catalogue (c.row cfg).kind.name).isSome = true := by
    rw [row_kind, kindNamed_of_catalogue h, h]
    cases c <;> rfl
  unfold CommandRow.encoded
  rw [if_pos hn, h]

/-- The key that an operation needs free is the one of its destination and of its kind's family. -/
theorem requestKey_eq_some {r : CommandRow} {m : ModuleAddress} {key : BusyKey} (h : r.requestKey m = some key) :
    key = ⟨m, r.kind.family⟩ := by
  unfold CommandRow.requestKey at h
  split at h <;> simp_all

/-- The kind that an operation's name names is the one it sends. -/
theorem row_kind_of_named {cfg : Cfg} {c : Command} {k : Kind} (h : named cfg.catalogue c.kindName = some k) :
    (c.row cfg).kind = k := by
  rw [row_kind, Cfg.kindNamed, h]; rfl

/-- The frame of an operation whose kind is registered is the encoding of that kind. -/
theorem encoded_of_named {cfg : Cfg} {c : Command} {k : Kind} (h : named cfg.catalogue c.kindName = some k) :
    (c.row cfg).encoded cfg = encodeFrame cfg.catalogue k.id (c.row cfg).dest hostAddr ((c.row cfg).fields cfg) := by
  unfold CommandRow.encoded
  rw [row_kind_of_named h, (named_spec h).2, h]
  rfl

/-- An operation whose kind is not registered has no frame. -/
theorem encoded_of_not_named {cfg : Cfg} {c : Command} (h : named cfg.catalogue c.kindName = none) :
    (c.row cfg).encoded cfg = .error (.schemaViolation (.unregisteredKind c.kindName.standard.id)) := by
  have hn : c.kindName.standard.name = c.kindName := by cases c <;> rfl
  unfold CommandRow.encoded
  rw [row_kind, Cfg.kindNamed, h, Option.getD_none, hn, h]
  rfl

/-- In a well-formed catalogue, an operation whose fields do not fit its kind has no frame: that is a schema violation,
whether or not the kind is registered. -/
theorem encoded_of_misfit {cfg : Cfg} {c : Command} {m : ModuleAddress} {r : SchemaReason}
    (hcat : catalogueWf cfg.catalogue = true) (hi : checkInputs cfg (c.row cfg) = .ok m)
    (hr : fieldsError (c.row cfg).kind.schema ((c.row cfg).fields cfg) = some r) :
    ∃ r', (c.row cfg).encoded cfg = .error (.schemaViolation r') := by
  obtain ⟨hd, hm⟩ := checkInputs_dest hi
  cases hn : named cfg.catalogue c.kindName with
  | none => exact ⟨_, encoded_of_not_named hn⟩
  | some k =>
    refine ⟨r, ?_⟩
    rw [encoded_of_named hn]
    rw [row_kind_of_named hn] at hr
    have hl : lookup cfg.catalogue k.id = some k := lookup_of_mem (catalogueWf_iff.1 hcat).1 (named_spec hn).1
    have hh : validate hostAddr = some .host := by decide
    simp only [encodeFrame, encodeCheck, hl, hd, hh, if_neg hm, hr]

theorem encodeFrame_fixed {cat : List Kind} {k : Kind} {id : MsgId} (hl : lookup cat id = some k) (hs : k.shape = .fixed)
    (hk : k.schema = .fixed2) {dest : Byte} {m : ModuleAddress} (hd : validate dest = some m) (hm : m ≠ .host)
    {p1 p2 : Nat} (h1 : p1 ≤ 255) (h2 : p2 ≤ 255) :
    encodeFrame cat id dest hostAddr (.params [p1, p2]) =
      .ok (bytesLe id.toNat 2 ++ [BitVec.ofNat 8 p1, BitVec.ofNat 8 p2, dest, 0x01]) := by
  have hh : validate hostAddr = some .host := by decide
  have hf : fieldsError k.schema (.params [p1, p2]) = none := by
    rw [hk]; simp only [fieldsError]; rw [if_neg]; omega
  have hc : encodeCheck cat id dest hostAddr (.params [p1, p2]) = .ok (k, m) := by
    simp only [encodeCheck, hl, hd, hh, if_neg hm, hf]
  simp only [encodeFrame, hc, hs]
  rw [eq_code_of_validate hd]
  simp [serialise, formatDest, hk, hostAddr]

theorem encodeFrame_variable {cat : List Kind} {k : Kind} {id : MsgId} {fs : List (FieldName × FieldType)}
    {vs : List (FieldName × FieldValue)} (hl : lookup cat id = some k) (hs : k.shape = .variableLen)
    (hk : k.schema = .fields fs) {dest : Byte} {m : ModuleAddress} (hd : validate dest = some m) (hm : m ≠ .host)
    (hn : vs.map Prod.fst = fs.map Prod.fst) (hf : firstMisfit fs vs = none) (hw : schemaWidth fs ≤ maxPayload) :
    encodeFrame cat id dest hostAddr (.values (.record vs)) =
      .ok (bytesLe id.toNat 2 ++ bytesLe (schemaWidth fs) 2 ++ [dest ||| 0x80, 0x01] ++ serFields fs vs) := by
  have hh : validate hostAddr = some .host := by decide
  have hf' : fieldsError k.schema (.values (.record vs)) = none := by
    rw [hk]; simp only [fieldsError]; rw [if_neg (by simp [hn]), hf]; rfl
  have hc : encodeCheck cat id dest hostAddr (.values (.record vs)) = .ok (k, m) := by
    simp only [encodeCheck, hl, hd, hh, if_neg hm, hf']
  simp only [encodeFrame, hc, hs, hk, serialise, length_serFields fs vs hn hf]
  rw [if_neg (Nat.not_lt.2 hw), eq_code_of_validate hd]
  simp [formatDest, hostAddr]

namespace Machine

variable {cfg : Cfg} {s : State}

/-! ### Requests and deferred requests -/

/-- A request whose key is free is issued. -/
theorem doRequest_of_free {key : BusyKey} (t : Tag) (c : Command) (bytes : List Byte)
    (h : ∀ e ∈ s.pending, e.2.key ≠ key) : doRequest cfg key t c bytes s = issue cfg key t c bytes s := by
  have hb : s.busy key = false := by
    rw [Bool.eq_false_iff]
    intro h'
    obtain ⟨e, he, hk⟩ := (busy_iff _ _).1 h'
    exact h e he hk
  unfold doRequest
  rw [hb]

/-- The outbound effect of a command changes the channel file and the subscriptions alone. -/
theorem applyOutbound_eq (c : Command) (m : ModuleAddress) (s : State) :
    applyOutbound c m s =
      { s with chan := (applyOutbound c m s).chan, subs := (applyOutbound c m s).subs } := by
  cases c <;> rfl

/-- The requests deferred on a key once the one of tag `t` is removed. -/
theorem waiting_waitRemove {w : List (BusyKey × List Deferred)} (hw : FMap.Rising BusyKey.rank w) (t : Tag)
    (key : BusyKey) :
    (FMap.get? (waitRemove t w) key).getD [] = ((FMap.get? w key).getD []).filter fun d => decide (d.tag ≠ t) := by
  let one : BusyKey → List Deferred → Option (List Deferred) := fun _ l =>
    let l' := l.filter fun d => decide (d.tag ≠ t)
    if l' = [] then none else some l'
  have key' : waitRemove t w = w.filterMap fun e => (one e.1 e.2).map fun b => (e.1, b) := by
    unfold waitRemove
    congr 1
    funext e
    simp only [one]
    split <;> rfl
  rw [key', FMap.get?_filterMap hw one]
  cases FMap.get? w key with
  | none => rfl
  | some l => simp only [one, Option.bind_some, Option.getD_some]; split <;> simp_all

theorem rising_waitRemove {w : List (BusyKey × List Deferred)} (h : FMap.Rising BusyKey.rank w) (t : Tag) :
    FMap.Rising BusyKey.rank (waitRemove t w) :=
  FMap.rising_filterMap h _ fun e e' he => by
    dsimp only at he
    split at he <;> simp_all
    rw [← he]

/-! ### How often a tag occurs -/

theorem count_tag_cons (a x : Tag) (l : List Tag) : (a :: l).count x = l.count x + if x = a then 1 else 0 := by
  rw [List.count_cons]
  by_cases h : x = a
  · subst h; simp
  · simp [h, Ne.symm h]

theorem count_put {m : List (Tag × Pending)} {t : Tag} {p : Pending} (h : FMap.get? m t = none) (x : Tag) :
    ((FMap.put id m t p).map Prod.fst).count x = (m.map Prod.fst).count x + if x = t then 1 else 0 := by
  induction m with
  | nil => simp only [FMap.put, List.map_cons, count_tag_cons]
  | cons e m ih =>
    unfold FMap.get? at h
    split at h
    · simp at h
    · rename_i hne
      unfold FMap.put
      rw [if_neg hne]
      split
      · simp only [List.map_cons, count_tag_cons]
      · simp only [List.map_cons, count_tag_cons, ih h]; omega

theorem count_del {m : List (Tag × Pending)} (t x : Tag) :
    ((FMap.del m t).map Prod.fst).count x = if x = t then 0 else (m.map Prod.fst).count x := by
  induction m with
  | nil => simp [FMap.del]
  | cons e m ih =>
    by_cases h : e.1 = t
    · have : FMap.del (e :: m) t = FMap.del m t := by unfold FMap.del; simp [h]
      rw [this, ih]; simp only [List.map_cons, count_tag_cons]; split <;> simp_all
    · have : FMap.del (e :: m) t = e :: FMap.del m t := by unfold FMap.del; simp [h]
      rw [this]; simp only [List.map_cons, count_tag_cons, ih]; split <;> simp_all
      intro h'; exact absurd h'.symm h

/-- A tag leaves the old list of the key and enters the new one. -/
theorem count_waitSet {w : List (BusyKey × List Deferred)} (hw : FMap.Rising BusyKey.rank w) (key : BusyKey)
    (l : List Deferred) (x : Tag) :
    (waitTags (waitSet w key l)).count x + (((FMap.get? w key).getD []).map Deferred.tag).count x =
      (waitTags w).count x + (l.map Deferred.tag).count x := by
  unfold waitSet
  split
  · rename_i hl; subst hl
    induction w with
    | nil => simp [FMap.del, waitTags, FMap.get?]
    | cons e w ih =>
      obtain ⟨k', v'⟩ := e
      have hw' := List.pairwise_cons.1 hw
      by_cases h : k' = key
      · subst h
        have hd : FMap.del w k' = w := by
          unfold FMap.del; rw [List.filter_eq_self]; intro e he; have := hw'.1 e he; simp; rintro rfl; simp at this
        have : FMap.del ((k', v') :: w) k' = w := by
          unfold FMap.del at hd ⊢; simp only [List.filter_cons]; simp; simpa using hd
        rw [this]; simp [FMap.get?, waitTags]; omega
      · have : FMap.del ((k', v') :: w) key = (k', v') :: FMap.del w key := by
          unfold FMap.del; simp [h]
        have ih := ih hw'.2
        rw [this]; simp only [FMap.get?, if_neg h]; simp [waitTags] at ih ⊢; omega
  · induction w with
    | nil => simp [FMap.put, waitTags, FMap.get?]
    | cons e w ih =>
      obtain ⟨k', v'⟩ := e
      have hw' := List.pairwise_cons.1 hw
      unfold FMap.put
      by_cases h : k' = key
      · subst h
        simp [FMap.get?, waitTags]; omega
      · rw [if_neg h]
        split
        · rename_i hlt
          have : FMap.get? ((k', v') :: w) key = none := by
            apply FMap.get?_eq_none_of_forall_ne
            intro e he heq
            rcases List.mem_cons.1 he with rfl | he
            · exact h heq
            · have := hw'.1 e he; rw [heq] at this; exact absurd (Nat.lt_trans hlt this) (Nat.lt_irrefl _)
          rw [this]; simp [waitTags]; omega
        · have ih := ih hw'.2
          simp only [FMap.get?, if_neg h]; simp [waitTags] at ih ⊢; omega

theorem count_waitRemove (w : List (BusyKey × List Deferred)) (t x : Tag) :
    (waitTags (waitRemove t w)).count x = if x = t then 0 else (waitTags w).count x := by
  induction w with
  | nil => simp [waitRemove, waitTags]
  | cons e w ih =>
    have key : ∀ l : List Deferred, ((l.filter fun d => decide (d.tag ≠ t)).map Deferred.tag).count x =
        if x = t then 0 else (l.map Deferred.tag).count x := by
      intro l
      induction l with
      | nil => simp
      | cons d l ih =>
        simp only [List.filter_cons]
        by_cases h : d.tag = t
        · subst h; simp at ih ⊢; rw [ih]
          by_cases h : x = d.tag <;> simp [h, List.count_cons]
          intro h'; exact absurd h'.symm h
        · simp [h] at ih ⊢; simp [List.count_cons, ih]; by_cases h' : x = t
          · subst h'; simp [h]
          · simp [h']
    have := key e.2
    unfold waitRemove waitTags at ih ⊢
    simp only [List.filterMap_cons]
    split
    · rename_i h
      split at h
      · rename_i h2
        rw [h2] at this; simp at this
        rw [ih]; simp; split <;> simp_all
      · simp at h
    · rename_i b h
      split at h
      · simp at h
      · cases h; simp only [List.flatMap_cons, List.count_append, ih, this]; split <;> rfl

/-- Sorting keeps the tags of a list without repeats. -/
theorem count_sortTags {l : List Tag} (hl : ∀ x, l.count x ≤ 1) (x : Tag) : (sortTags l).count x = l.count x := by
  have h1 : (sortTags l).Nodup := (sortTags_rising l).imp fun h => Nat.ne_of_lt h
  by_cases hx : x ∈ l
  · rw [List.count_eq_one_of_mem h1 ((mem_sortTags x l).2 hx)]
    have := List.count_pos_iff.2 hx
    have := hl x
    omega
  · rw [List.count_eq_zero.2 hx, List.count_eq_zero.2 fun h => hx ((mem_sortTags x l).1 h)]

end Machine

end Sys2Proof
end

