-- ==== Sys2Proof/Tests/Slice0.lean ====
section
/-! SUPPORT. The model's own tests. Expected results are the worked examples and vectors of 95_test_vectors.md and
45_message_catalogue.md (their numbers are named), or are computed by hand from the rule named. The last part gives, for
every statement with hypotheses, a concrete state and operands that meet them. -/

namespace Sys2Proof.Tests

open Sys2Proof Sys2Proof.Machine

/-! ### Helpers -/

/-- The `Cfg` of the vectors: two channels, a timeout of 100 ticks, `FailFast`. -/
def testCfg : Cfg := (⟨1, 99, .failFast⟩ : Params).withDefaults

/-- The same with `Wait`. -/
def waitCfg : Cfg := { testCfg with busyPolicy := .wait }

/-- A configuration with four channels. -/
def fourCfg : Cfg := { testCfg with extraChannels := 3 }

/-- A kind of a configuration's own, with an opaque payload (R101). -/
def vendorKind : Kind :=
  { id := 0x0700, name := .other "VENDOR_REPORT", shape := .variableLen, schema := .opaqueBytes, role := .report,
    dir := .deviceToHost, family := none, responses := [], chanField := .none, slot := none }

/-- `MOT_GET_VELPARAMS` with another payload layout: a one-byte channel and one value. -/
def ownVelKind : Kind :=
  { kindMotGetVelparams with
      schema := .fields [(.other "Channel", .uint1), (.maxVel, .uint4)], chanField := .field (.other "Channel") }

/-- The five kinds of R300 as they must be, and the two kinds above. -/
def ownCatalogue : List Kind :=
  [kindModIdentify, kindModSetChanenablestate, kindModReqChanenablestate, kindModGetChanenablestate,
    kindMotMoveCompleted, vendorKind, ownVelKind]

/-- A configuration with that catalogue and codes of its own. -/
def ownCfg : Cfg := { testCfg with catalogue := ownCatalogue, chanIdents := [(1, 0x10)], enableOn := 0x05 }

/-- Bay 0 and Bay 1, the modules of codes 0x21 and 0x22. -/
def bay0 : ModuleAddress := .bay 0
def bay1 : ModuleAddress := .bay 1

/-- The state after an outcome. -/
def after (o : Host.Outcome State Fault Refusal) : State :=
  match o with
  | .next t => t
  | .fault _ => State.reset
  | .refused _ => State.reset

/-- The reset state with the next write answered `r`. -/
def answering (r : TxAnswer) : State := State.reset.setEnv { agenda := [], answers := [r], draws := 0 }

/-- The reset state with an operation in the queue under tag 0, the next write answered `ok`. -/
def queued (op : Op) : State := (answering .ok).setCmdq [(0, op)]

/-- What `Process` writes for a command. -/
def written (c : Command) : List (List Byte × TxAnswer) := (process testCfg (queued (.command c))).txlog

/-- How `Process` ends a command. -/
def ended (c : Command) : List (Tag × OpOutcome) := (process testCfg (queued (.command c))).results

/-- The reset state with channel 1 of Bay 0 in a life. -/
def inLife (l : Life) : State := State.reset.setChan [(⟨bay0, 1⟩, { ChannelState.init with life := l })]

/-- The life of channel 1 of Bay 0 after a received frame. -/
def lifeAfter (i : Instr) (l : Life) : Life := ((after (exec i (inLife l))).chanOf bay0 1).life

/-- The life of channel 1 of Bay 0 after a command is processed. -/
def lifeAfterSending (c : Command) (l : Life) : Life :=
  ((process testCfg ((inLife l).setEnv { agenda := [], answers := [.ok], draws := 0 }
    |>.setCmdq [(0, .command c)])).chanOf bay0 1).life

/-- The entry that a request to module `m` opens at time 0 (with a timeout of its own). -/
def entry (m : ModuleAddress) (fam : Family) (c : Command) : Pending := newPending testCfg ⟨m, some fam⟩ c 0

/-- The reset state with one pending entry, tag 0. -/
def waitingOn (p : Pending) : State := State.reset.setPending [(0, p)]

/-- `get_enable(1, 0x21)` with a timeout of 100. -/
def getEnable0 : Command := .getEnable 1 0x21 (some 100)

/-- `get_velparams(1, 0x21)` with a timeout of 100. -/
def getVel0 : Command := .getVelparams 1 0x21 (some 100)

/-- The payload of the velocity examples: channel 1, 0, 0x90, 0x10000 (R317, R319). -/
def velPayload : List Byte := [0x01, 0x00, 0x00, 0x00, 0x00, 0x00, 0x90, 0x00, 0x00, 0x00, 0x00, 0x00, 0x01, 0x00]

/-- The fields of that payload (D4). -/
def velFields : FieldValues :=
  .record [(.chanIdent, .uint 1), (.minVel, .uint 0), (.accn, .uint 0x90), (.maxVel, .uint 0x10000)]

/-- The payload of the status examples: channel 1, position 0x1000, encoder 0x1000, no status bits (R342). -/
def statusPayload : List Byte := [0x01, 0x00, 0x00, 0x10, 0x00, 0x00, 0x00, 0x10, 0x00, 0x00, 0x00, 0x00, 0x00, 0x00]

/-- The fields of that payload. -/
def statusFields : FieldValues :=
  .record [(.chanIdent, .uint 1), (.position, .uint 0x1000), (.encCount, .uint 0x1000), (.statusBits, .uint 0)]

/-- 68 bytes of a rich response, the last one marked (R308). -/
def richPayload : List Byte := [0x23, 0x02, 0x05, 0x00] ++ List.replicate 63 0x41 ++ [0x5A]

/-- 84 bytes of hardware information, the last field one channel (R312). -/
def infoPayload : List Byte :=
  [0x78, 0x56, 0x34, 0x12] ++ List.replicate 8 0x4B ++ [0x2C, 0x00, 0x01, 0x02, 0x03, 0x04] ++ List.replicate 48 0x4E ++
    List.replicate 12 0x00 ++ [0x03, 0x00, 0x02, 0x00, 0x01, 0x00]

/-! ### Decoding: one frame of every kind, the example of its rule in 45_message_catalogue.md -/

theorem test_decode_modIdentify :
    fetch [0x23, 0x02, 0x00, 0x00, 0x21, 0x01] =
      .frame (.modIdentify 0x00 0x00 0x21 0x01) [] := by decide
theorem test_decode_modSetChanenablestate :
    fetch [0x20, 0x02, 0x01, 0x01, 0x21, 0x01] =
      .frame (.modSetChanenablestate 0x01 0x01 0x21 0x01) [] := by decide
theorem test_decode_modReqChanenablestate :
    fetch [0x21, 0x02, 0x01, 0x00, 0x21, 0x01] =
      .frame (.modReqChanenablestate 0x01 0x00 0x21 0x01) [] := by decide
theorem test_decode_modGetChanenablestate :
    fetch [0x12, 0x02, 0x01, 0x01, 0x01, 0x21] =
      .frame (.modGetChanenablestate 0x01 0x01 0x01 0x21) [] := by decide
theorem test_decode_hwDisconnect :
    fetch [0x02, 0x00, 0x00, 0x00, 0x01, 0x21] =
      .frame (.hwDisconnect 0x00 0x00 0x01 0x21) [] := by decide
theorem test_decode_hwResponse :
    fetch [0x80, 0x00, 0x00, 0x00, 0x01, 0x21] =
      .frame (.hwResponse 0x00 0x00 0x01 0x21) [] := by decide
theorem test_decode_hwRichresponse :
    fetch ([0x81, 0x00, 0x44, 0x00, 0x81, 0x21] ++ richPayload) = .frame (.hwRichresponse 0x81 0x21 richPayload) [] := by
  decide
theorem test_decode_hwStartUpdatemsgs :
    fetch [0x11, 0x00, 0x00, 0x00, 0x21, 0x01] =
      .frame (.hwStartUpdatemsgs 0x00 0x00 0x21 0x01) [] := by decide
theorem test_decode_hwStopUpdatemsgs :
    fetch [0x12, 0x00, 0x00, 0x00, 0x21, 0x01] =
      .frame (.hwStopUpdatemsgs 0x00 0x00 0x21 0x01) [] := by decide
theorem test_decode_hwReqInfo :
    fetch [0x05, 0x00, 0x00, 0x00, 0x21, 0x01] =
      .frame (.hwReqInfo 0x00 0x00 0x21 0x01) [] := by decide
theorem test_decode_hwGetInfo :
    fetch ([0x06, 0x00, 0x54, 0x00, 0x81, 0x21] ++ infoPayload) = .frame (.hwGetInfo 0x81 0x21 infoPayload) [] := by
  decide
theorem test_decode_rackReqBayused :
    fetch [0x60, 0x00, 0x03, 0x00, 0x11, 0x01] =
      .frame (.rackReqBayused 0x03 0x00 0x11 0x01) [] := by decide
theorem test_decode_rackGetBayused :
    fetch [0x61, 0x00, 0x03, 0x01, 0x01, 0x11] =
      .frame (.rackGetBayused 0x03 0x01 0x01 0x11) [] := by decide
theorem test_decode_hubReqBayused :
    fetch [0x65, 0x00, 0x00, 0x00, 0x50, 0x01] =
      .frame (.hubReqBayused 0x00 0x00 0x50 0x01) [] := by decide
theorem test_decode_hubGetBayused :
    fetch [0x66, 0x00, 0x02, 0x00, 0x01, 0x50] =
      .frame (.hubGetBayused 0x02 0x00 0x01 0x50) [] := by decide
theorem test_decode_motSetVelparams :
    fetch [0x13, 0x04, 0x0E, 0x00, 0xA1, 0x01, 0x01, 0x00, 0x00, 0x00, 0x00, 0x00, 0x90, 0x00, 0x00, 0x00, 0x00,
      0x00, 0x01, 0x00] =
      .frame (.motSetVelparams 0xA1 0x01 [0x01, 0x00, 0x00, 0x00, 0x00, 0x00, 0x90, 0x00, 0x00, 0x00, 0x00, 0x00,
      0x01, 0x00]) [] := by decide
theorem test_decode_motReqVelparams :
    fetch [0x14, 0x04, 0x01, 0x00, 0x21, 0x01] =
      .frame (.motReqVelparams 0x01 0x00 0x21 0x01) [] := by decide
theorem test_decode_motGetVelparams :
    fetch [0x15, 0x04, 0x0E, 0x00, 0x81, 0x21, 0x01, 0x00, 0x00, 0x00, 0x00, 0x00, 0x90, 0x00, 0x00, 0x00, 0x00,
      0x00, 0x01, 0x00] =
      .frame (.motGetVelparams 0x81 0x21 [0x01, 0x00, 0x00, 0x00, 0x00, 0x00, 0x90, 0x00, 0x00, 0x00, 0x00, 0x00,
      0x01, 0x00]) [] := by decide
theorem test_decode_motSetJogparams :
    fetch [0x16, 0x04, 0x16, 0x00, 0xA1, 0x01, 0x01, 0x00, 0x02, 0x00, 0x00, 0x10, 0x00, 0x00, 0x00, 0x00, 0x00,
      0x00, 0x00, 0x01, 0x00, 0x00, 0x00, 0x20, 0x00, 0x00, 0x02, 0x00] =
      .frame (.motSetJogparams 0xA1 0x01 [0x01, 0x00, 0x02, 0x00, 0x00, 0x10, 0x00, 0x00, 0x00, 0x00, 0x00, 0x00,
      0x00, 0x01, 0x00, 0x00, 0x00, 0x20, 0x00, 0x00, 0x02, 0x00]) [] := by decide
theorem test_decode_motReqJogparams :
    fetch [0x17, 0x04, 0x01, 0x00, 0x21, 0x01] =
      .frame (.motReqJogparams 0x01 0x00 0x21 0x01) [] := by decide
theorem test_decode_motGetJogparams :
    fetch [0x18, 0x04, 0x16, 0x00, 0x81, 0x21, 0x01, 0x00, 0x02, 0x00, 0x00, 0x10, 0x00, 0x00, 0x00, 0x00, 0x00,
      0x00, 0x00, 0x01, 0x00, 0x00, 0x00, 0x20, 0x00, 0x00, 0x02, 0x00] =
      .frame (.motGetJogparams 0x81 0x21 [0x01, 0x00, 0x02, 0x00, 0x00, 0x10, 0x00, 0x00, 0x00, 0x00, 0x00, 0x00,
      0x00, 0x01, 0x00, 0x00, 0x00, 0x20, 0x00, 0x00, 0x02, 0x00]) [] := by decide
theorem test_decode_motSetLimswitchparams :
    fetch [0x23, 0x04, 0x10, 0x00, 0xA1, 0x01, 0x01, 0x00, 0x02, 0x00, 0x02, 0x00, 0x00, 0x00, 0x01, 0x00, 0x00,
      0x00, 0x00, 0x00, 0x01, 0x00] =
      .frame (.motSetLimswitchparams 0xA1 0x01 [0x01, 0x00, 0x02, 0x00, 0x02, 0x00, 0x00, 0x00, 0x01, 0x00, 0x00,
      0x00, 0x00, 0x00, 0x01, 0x00]) [] := by decide
theorem test_decode_motReqLimswitchparams :
    fetch [0x24, 0x04, 0x01, 0x00, 0x21, 0x01] =
      .frame (.motReqLimswitchparams 0x01 0x00 0x21 0x01) [] := by decide
theorem test_decode_motGetLimswitchparams :
    fetch [0x25, 0x04, 0x10, 0x00, 0x81, 0x21, 0x01, 0x00, 0x02, 0x00, 0x02, 0x00, 0x00, 0x00, 0x01, 0x00, 0x00,
      0x00, 0x00, 0x00, 0x01, 0x00] =
      .frame (.motGetLimswitchparams 0x81 0x21 [0x01, 0x00, 0x02, 0x00, 0x02, 0x00, 0x00, 0x00, 0x01, 0x00, 0x00,
      0x00, 0x00, 0x00, 0x01, 0x00]) [] := by decide
theorem test_decode_motReqAdcinputs :
    fetch [0x2B, 0x04, 0x01, 0x00, 0x21, 0x01] =
      .frame (.motReqAdcinputs 0x01 0x00 0x21 0x01) [] := by decide
theorem test_decode_motGetAdcinputs :
    fetch [0x2C, 0x04, 0x04, 0x00, 0x81, 0x21, 0x34, 0x12, 0x78, 0x56] =
      .frame (.motGetAdcinputs 0x81 0x21 [0x34, 0x12, 0x78, 0x56]) [] := by decide
theorem test_decode_motSetHomeparams :
    fetch [0x40, 0x04, 0x0E, 0x00, 0xA1, 0x01, 0x01, 0x00, 0x02, 0x00, 0x01, 0x00, 0x00, 0x30, 0x00, 0x00, 0x00,
      0x01, 0x00, 0x00] =
      .frame (.motSetHomeparams 0xA1 0x01 [0x01, 0x00, 0x02, 0x00, 0x01, 0x00, 0x00, 0x30, 0x00, 0x00, 0x00, 0x01,
      0x00, 0x00]) [] := by decide
theorem test_decode_motReqHomeparams :
    fetch [0x41, 0x04, 0x01, 0x00, 0x21, 0x01] =
      .frame (.motReqHomeparams 0x01 0x00 0x21 0x01) [] := by decide
theorem test_decode_motGetHomeparams :
    fetch [0x42, 0x04, 0x0E, 0x00, 0x81, 0x21, 0x01, 0x00, 0x02, 0x00, 0x01, 0x00, 0x00, 0x30, 0x00, 0x00, 0x00,
      0x01, 0x00, 0x00] =
      .frame (.motGetHomeparams 0x81 0x21 [0x01, 0x00, 0x02, 0x00, 0x01, 0x00, 0x00, 0x30, 0x00, 0x00, 0x00, 0x01,
      0x00, 0x00]) [] := by decide
theorem test_decode_motMoveHome :
    fetch [0x43, 0x04, 0x01, 0x00, 0x21, 0x01] =
      .frame (.motMoveHome 0x01 0x00 0x21 0x01) [] := by decide
theorem test_decode_motMoveHomed :
    fetch [0x44, 0x04, 0x01, 0x00, 0x01, 0x21] =
      .frame (.motMoveHomed 0x01 0x00 0x01 0x21) [] := by decide
theorem test_decode_motSetMoverelparams :
    fetch [0x45, 0x04, 0x06, 0x00, 0xA1, 0x01, 0x01, 0x00, 0x00, 0x10, 0x00, 0x00] =
      .frame (.motSetMoverelparams 0xA1 0x01 [0x01, 0x00, 0x00, 0x10, 0x00, 0x00]) [] := by decide
theorem test_decode_motReqMoverelparams :
    fetch [0x46, 0x04, 0x01, 0x00, 0x21, 0x01] =
      .frame (.motReqMoverelparams 0x01 0x00 0x21 0x01) [] := by decide
theorem test_decode_motGetMoverelparams :
    fetch [0x47, 0x04, 0x06, 0x00, 0x81, 0x21, 0x01, 0x00, 0x00, 0x10, 0x00, 0x00] =
      .frame (.motGetMoverelparams 0x81 0x21 [0x01, 0x00, 0x00, 0x10, 0x00, 0x00]) [] := by decide
theorem test_decode_motMoveRelative :
    fetch [0x48, 0x04, 0x01, 0x00, 0x21, 0x01] =
      .frame (.motMoveRelative 0x01 0x00 0x21 0x01) [] := by decide
theorem test_decode_motSetMoveabsparams :
    fetch [0x50, 0x04, 0x06, 0x00, 0xA1, 0x01, 0x01, 0x00, 0x00, 0xF0, 0xFF, 0xFF] =
      .frame (.motSetMoveabsparams 0xA1 0x01 [0x01, 0x00, 0x00, 0xF0, 0xFF, 0xFF]) [] := by decide
theorem test_decode_motReqMoveabsparams :
    fetch [0x51, 0x04, 0x01, 0x00, 0x21, 0x01] =
      .frame (.motReqMoveabsparams 0x01 0x00 0x21 0x01) [] := by decide
theorem test_decode_motGetMoveabsparams :
    fetch [0x52, 0x04, 0x06, 0x00, 0x81, 0x21, 0x01, 0x00, 0x00, 0xF0, 0xFF, 0xFF] =
      .frame (.motGetMoveabsparams 0x81 0x21 [0x01, 0x00, 0x00, 0xF0, 0xFF, 0xFF]) [] := by decide
theorem test_decode_motMoveAbsolute :
    fetch [0x53, 0x04, 0x01, 0x00, 0x21, 0x01] =
      .frame (.motMoveAbsolute 0x01 0x00 0x21 0x01) [] := by decide
theorem test_decode_motMoveVelocity :
    fetch [0x57, 0x04, 0x01, 0x02, 0x21, 0x01] =
      .frame (.motMoveVelocity 0x01 0x02 0x21 0x01) [] := by decide
theorem test_decode_motMoveCompleted :
    fetch [0x64, 0x04, 0x0E, 0x00, 0x81, 0x21, 0x01, 0x00, 0x00, 0x10, 0x00, 0x00, 0x00, 0x10, 0x00, 0x00, 0x00,
      0x00, 0x00, 0x00] =
      .frame (.motMoveCompleted 0x81 0x21 [0x01, 0x00, 0x00, 0x10, 0x00, 0x00, 0x00, 0x10, 0x00, 0x00, 0x00, 0x00,
      0x00, 0x00]) [] := by decide
theorem test_decode_motMoveStop :
    fetch [0x65, 0x04, 0x01, 0x02, 0x21, 0x01] =
      .frame (.motMoveStop 0x01 0x02 0x21 0x01) [] := by decide
theorem test_decode_motMoveStopped :
    fetch [0x66, 0x04, 0x0E, 0x00, 0x81, 0x21, 0x01, 0x00, 0x00, 0x08, 0x00, 0x00, 0x00, 0x08, 0x00, 0x00, 0x00,
      0x00, 0x00, 0x00] =
      .frame (.motMoveStopped 0x81 0x21 [0x01, 0x00, 0x00, 0x08, 0x00, 0x00, 0x00, 0x08, 0x00, 0x00, 0x00, 0x00,
      0x00, 0x00]) [] := by decide
theorem test_decode_motMoveJog :
    fetch [0x6A, 0x04, 0x01, 0x01, 0x21, 0x01] =
      .frame (.motMoveJog 0x01 0x01 0x21 0x01) [] := by decide

/-! ### What the decoders refuse (Decode vectors D7 to D27, deframer vectors S1 to S11) -/

theorem test_d7_marker_on_fixed :
    decodeFrame catalogue [0x23, 0x02, 0x00, 0x00, 0xA1, 0x01] = .error (.malformedAddressBit 0x0223 0xA1) := by rfl
theorem test_d8_trailing :
    decodeFrame catalogue [0x23, 0x02, 0x00, 0x00, 0x21, 0x01, 0xFF] = .error (.trailingBytes 0x0223 1) := by rfl
theorem test_d9_no_marker_on_variable :
    decodeFrame catalogue ([0x15, 0x04, 0x0E, 0x00, 0x01, 0x21] ++ velPayload) = .error (.malformedAddressBit 0x0415 0x01) := by rfl
theorem test_d10_truncated : decodeFrame catalogue [0x23, 0x02, 0x00] = .error (.truncatedFrame (some 0x0223) 3 6) := by rfl
theorem test_d11_truncated : decodeFrame catalogue [0x23] = .error (.truncatedFrame none 1 2) := by rfl
theorem test_d14_byte_order :
    decodeFrame catalogue [0x23, 0x20, 0x00, 0x00, 0x21, 0x01] = .error (.unknownMessageId 0x2023) := by rfl
theorem test_d15_payload_short :
    decodeFrame catalogue ([0x15, 0x04, 0x0E, 0x00, 0x81, 0x21] ++ velPayload.take 13) =
      .error (.truncatedFrame (some 0x0415) 13 14) := by rfl
theorem test_d16_payload_long :
    decodeFrame catalogue ([0x15, 0x04, 0x0E, 0x00, 0x81, 0x21] ++ velPayload ++ [0x00]) = .error (.trailingBytes 0x0415 1) := by rfl
theorem test_d17_under_schema_width :
    decodeFrame catalogue ([0x15, 0x04, 0x0C, 0x00, 0x81, 0x21] ++ velPayload.take 12) =
      .error (.truncatedFrame (some 0x0415) 12 14) := by rfl
theorem test_d18_over_schema_width :
    decodeFrame catalogue ([0x15, 0x04, 0x10, 0x00, 0x81, 0x21] ++ velPayload ++ [0x00, 0x00]) =
      .error (.trailingBytes 0x0415 2) := by rfl
theorem test_d19_source : decodeFrame catalogue [0x23, 0x02, 0x00, 0x00, 0x22, 0x99] = .error (.invalidAddress 0x99) := by rfl
theorem test_d20_destination : decodeFrame catalogue [0x23, 0x02, 0x00, 0x00, 0x2B, 0x01] = .error (.invalidAddress 0x2B) := by rfl
theorem test_d22_marker_stripped_first :
    decodeFrame catalogue ([0x15, 0x04, 0x0E, 0x00, 0x80, 0x21] ++ velPayload) = .error (.invalidAddress 0x80) := by rfl
theorem test_d24_marker_before_addresses :
    decodeFrame catalogue [0x23, 0x02, 0x00, 0x00, 0xA1, 0x81] = .error (.malformedAddressBit 0x0223 0xA1) := by rfl
theorem test_d4_fields :
    decodeFrame catalogue ([0x15, 0x04, 0x0E, 0x00, 0x81, 0x21] ++ velPayload) =
      .ok { id := 0x0415, dest := .host, source := bay0, body := .variableLen 14 velFields } := by rfl
theorem test_s1_resynchronisation : fetch [0x00, 0x23, 0x02, 0x00, 0x00, 0x21, 0x01] = .unknown 0x2300 := by decide
theorem test_s3_not_ready : fetch [0x23, 0x02, 0x00] = .wait := by decide
theorem test_s4_not_ready : fetch [0x15, 0x04, 0x0E, 0x00, 0x81, 0x21, 0x01, 0x00] = .wait := by decide
theorem test_s10_rest :
    fetch [0x02, 0x00, 0x00, 0x00, 0x01, 0x21, 0x23, 0x02] = .frame (.hwDisconnect 0 0 0x01 0x21) [0x23, 0x02] := by
  decide

/-! ### Addresses (A14 to A20) -/

theorem test_a14_invalid :
    [0x00, 0x02, 0x10, 0x12, 0x20, 0x2B, 0x4F, 0x51, 0x7F, 0x80, 0x81, 0xA1, 0xFF].all
      (fun b => validate b == none) = true := by decide
theorem test_a16_format : formatDest .genericUSB .variableLen = 0xD0 ∧ formatDest bay0 .fixed = 0x21 := by decide
theorem test_a17_strip : stripDest 0xAA = some (.bay 9, .variableLen) ∧ stripDest 0xAB = none := by decide

/-! ### Well-formedness: each check refuses an instruction that breaks it alone -/

theorem test_wf_accepts : (Instr.motGetVelparams 0x81 0x21 velPayload).wellFormed = true := by decide
theorem test_wf_refuses_length :
    (Instr.motGetVelparams 0x81 0x21 (List.replicate 65536 0)).lengthFits = false ∧
      (Instr.motGetVelparams 0x81 0x21 (List.replicate 65536 0)).wellFormed = false := by
  have h : (Instr.motGetVelparams 0x81 0x21 (List.replicate 65536 0)).lengthFits = false := by
    simp only [Instr.lengthFits, Instr.raw, List.length_replicate]; decide
  exact ⟨h, by simp only [Instr.wellFormed, h, Bool.false_and]⟩
theorem test_wf_refuses_width :
    (Instr.motGetVelparams 0x81 0x21 (velPayload.take 12)).widthMatches = false ∧
      (Instr.motGetVelparams 0x81 0x21 (velPayload.take 12)).wellFormed = false := by decide
theorem test_wf_refuses_marker :
    (Instr.modIdentify 0 0 0xA1 0x01).markerMatches = false ∧ (Instr.modIdentify 0 0 0xA1 0x01).wellFormed = false := by
  decide
theorem test_wf_refuses_dest :
    (Instr.modIdentify 0 0 0x2B 0x01).destValid = false ∧ (Instr.modIdentify 0 0 0x2B 0x01).wellFormed = false := by
  decide
theorem test_wf_refuses_source :
    (Instr.modIdentify 0 0 0x21 0x81).sourceValid = false ∧ (Instr.modIdentify 0 0 0x21 0x81).wellFormed = false := by
  decide

/-! ### The host's two functions on table words -/

theorem test_table_word : decodeTableWord 48 0x012100000223 = some (.modIdentify 0 0 0x21 0x01) := by decide
theorem test_table_word_short :
    decodeTableWord 48 0x21810004042C = some (.motGetAdcinputs 0x81 0x21 [0, 0, 0, 0]) := by decide
theorem test_table_word_unknown : decodeTableWord 48 0x012100002023 = none := by decide
theorem test_fetch_word_runs :
    (after (step (State.reset.withFetchWord 48 0x210101010212))).notify =
      [{ id := 0x0212, dest := .host, source := bay0, body := .fixed 1 1 }] := by decide

/-! ### What each operation writes (E1 to E30) -/

theorem test_e1_identify : written (.identify 1 0x21) = [([0x23, 0x02, 0x00, 0x00, 0x21, 0x01], .ok)] := by decide
theorem test_e3_set_enable : written (.setEnable 1 0x21 true) = [([0x20, 0x02, 0x01, 0x01, 0x21, 0x01], .ok)] := by decide
theorem test_e4_set_enable : written (.setEnable 2 0x21 false) = [([0x20, 0x02, 0x02, 0x02, 0x21, 0x01], .ok)] := by decide
theorem test_e5_get_enable : written getEnable0 = [([0x21, 0x02, 0x01, 0x00, 0x21, 0x01], .ok)] := by decide
theorem test_e6_get_velparams : written getVel0 = [([0x14, 0x04, 0x01, 0x00, 0x21, 0x01], .ok)] := by decide
theorem test_e7_set_velparams :
    written (.setVelparams 1 0x21 (.record [(.minVel, .uint 0), (.accn, .uint 0x90), (.maxVel, .uint 0x10000)])) =
      [([0x13, 0x04, 0x0E, 0x00, 0xA1, 0x01] ++ velPayload, .ok)] := by decide
theorem test_e8_set_jogparams :
    written (.setJogparams 1 0x21 (.record [(.jogMode, .uint 2), (.jogStepSize, .uint 0x1000), (.jogMinVel, .uint 0),
      (.jogAccn, .uint 0x100), (.jogMaxVel, .uint 0x2000), (.stopMode, .uint 2)])) =
      [([0x16, 0x04, 0x16, 0x00, 0xA1, 0x01, 0x01, 0x00, 0x02, 0x00, 0x00, 0x10, 0x00, 0x00, 0x00, 0x00, 0x00, 0x00,
        0x00, 0x01, 0x00, 0x00, 0x00, 0x20, 0x00, 0x00, 0x02, 0x00], .ok)] := by decide
theorem test_e9_set_homeparams :
    written (.setHomeparams 1 0x21 (.record [(.homeDir, .uint 2), (.limitSwitch, .uint 1), (.homeVelocity, .uint 0x3000),
      (.offsetDistance, .uint 0x100)])) =
      [([0x40, 0x04, 0x0E, 0x00, 0xA1, 0x01, 0x01, 0x00, 0x02, 0x00, 0x01, 0x00, 0x00, 0x30, 0x00, 0x00, 0x00, 0x01,
        0x00, 0x00], .ok)] := by decide
theorem test_e10_set_limswitchparams :
    written (.setLimswitchparams 1 0x21 (.record [(.cwHardLimit, .uint 2), (.ccwHardLimit, .uint 2),
      (.cwSoftLimit, .uint 0x10000), (.ccwSoftLimit, .uint 0), (.limitMode, .uint 1)])) =
      [([0x23, 0x04, 0x10, 0x00, 0xA1, 0x01, 0x01, 0x00, 0x02, 0x00, 0x02, 0x00, 0x00, 0x00, 0x01, 0x00, 0x00, 0x00,
        0x00, 0x00, 0x01, 0x00], .ok)] := by decide
theorem test_e11_set_moverelparams :
    written (.setMoverelparams 1 0x21 (.record [(.relativeDistance, .uint 0x1000)])) =
      [([0x45, 0x04, 0x06, 0x00, 0xA1, 0x01, 0x01, 0x00, 0x00, 0x10, 0x00, 0x00], .ok)] := by decide
theorem test_e12_set_moveabsparams :
    written (.setMoveabsparams 1 0x21 (.record [(.absolutePosition, .uint 0xFFFFF000)])) =
      [([0x50, 0x04, 0x06, 0x00, 0xA1, 0x01, 0x01, 0x00, 0x00, 0xF0, 0xFF, 0xFF], .ok)] := by decide
theorem test_e13_get_jogparams :
    written (.getJogparams 1 0x21 none) = [([0x17, 0x04, 0x01, 0x00, 0x21, 0x01], .ok)] := by decide
theorem test_e14_get_homeparams :
    written (.getHomeparams 1 0x21 none) = [([0x41, 0x04, 0x01, 0x00, 0x21, 0x01], .ok)] := by decide
theorem test_e15_get_limswitchparams :
    written (.getLimswitchparams 1 0x21 none) = [([0x24, 0x04, 0x01, 0x00, 0x21, 0x01], .ok)] := by decide
theorem test_e16_get_moverelparams :
    written (.getMoverelparams 1 0x21 none) = [([0x46, 0x04, 0x01, 0x00, 0x21, 0x01], .ok)] := by decide
theorem test_e17_get_moveabsparams :
    written (.getMoveabsparams 1 0x21 none) = [([0x51, 0x04, 0x01, 0x00, 0x21, 0x01], .ok)] := by decide
theorem test_e18_get_adc : written (.getAdc 1 0x21 none) = [([0x2B, 0x04, 0x01, 0x00, 0x21, 0x01], .ok)] := by decide
theorem test_e19_move_home : written (.moveHome 1 0x21) = [([0x43, 0x04, 0x01, 0x00, 0x21, 0x01], .ok)] := by decide
theorem test_e20_move_relative :
    written (.moveRelative 1 0x21) = [([0x48, 0x04, 0x01, 0x00, 0x21, 0x01], .ok)] := by decide
theorem test_e21_move_absolute :
    written (.moveAbsolute 2 0x21) = [([0x53, 0x04, 0x02, 0x00, 0x21, 0x01], .ok)] := by decide
theorem test_e22_move_jog :
    written (.moveJog 1 0x21 .forward) = [([0x6A, 0x04, 0x01, 0x01, 0x21, 0x01], .ok)] := by decide
theorem test_e23_move_velocity :
    written (.moveVelocity 1 0x21 .reverse) = [([0x57, 0x04, 0x01, 0x02, 0x21, 0x01], .ok)] := by decide
theorem test_e25_move_stop :
    written (.moveStop 1 0x21 .profiled) = [([0x65, 0x04, 0x01, 0x02, 0x21, 0x01], .ok)] := by decide
theorem test_e26_start_updates :
    written (.startUpdates 0x21) = [([0x11, 0x00, 0x00, 0x00, 0x21, 0x01], .ok)] ∧
      (process testCfg (queued (.command (.startUpdates 0x21)))).subOf bay0 = .subscribed := by decide
theorem test_e27_stop_updates :
    written (.stopUpdates 0x21) = [([0x12, 0x00, 0x00, 0x00, 0x21, 0x01], .ok)] := by decide
theorem test_e28_req_hw_info :
    written (.reqHwInfo 0x21 none) = [([0x05, 0x00, 0x00, 0x00, 0x21, 0x01], .ok)] := by decide
theorem test_e29_req_rack_bayused :
    written (.reqRackBayused 0x11 3 none) = [([0x60, 0x00, 0x03, 0x00, 0x11, 0x01], .ok)] := by decide
theorem test_e30_req_hub_bayused :
    written (.reqHubBayused 0x50 none) = [([0x65, 0x00, 0x00, 0x00, 0x50, 0x01], .ok)] := by decide

/-! ### Operations turned away (X1 to X15) -/

theorem test_x1_bad_dest :
    ended (.getEnable 1 0x2B none) = [(0, .err .invalidAddress)] ∧ written (.getEnable 1 0x2B none) = [] := by decide
theorem test_x2_self_addressed : ended (.identify 1 0x01) = [(0, .err .invalidAddress)] := by decide
theorem test_x4_channel : ended (.setEnable 3 0x21 true) = [(0, .err .schemaViolation)] := by decide
theorem test_x6_timeout : ended (.getEnable 1 0x21 (some 0)) = [(0, .err .schemaViolation)] := by decide
theorem test_x7_bay : ended (.reqRackBayused 0x11 10 none) = [(0, .err .schemaViolation)] := by decide
theorem test_x9_field_width :
    ended (.setVelparams 1 0x21 (.record [(.minVel, .uint 0), (.accn, .uint 0x90), (.maxVel, .uint 0x100000000)])) =
      [(0, .err .schemaViolation)] := by decide
theorem test_x11_self_addressed :
    encodeFrame catalogue 0x0223 0x21 0x21 (.params [0, 0]) = .error (.selfAddressed 0x21) := by rfl
theorem test_x13_closed :
    (process testCfg ((queued (.command (.identify 1 0x21))).setConn .closed)).results =
      [(0, .err .transportError)] := by decide
theorem test_x14_input_checks_first :
    (process testCfg ((queued (.command (.identify 1 0x2B))).setConn .closed)).results =
      [(0, .err .invalidAddress)] := by decide
theorem test_x15_write_error :
    let t := process testCfg ((answering .error).setCmdq [(0, .command (.identify 1 0x21))])
    t.conn = .closed ∧ t.txlog = [([0x23, 0x02, 0x00, 0x00, 0x21, 0x01], .error)] ∧
      t.results = [(0, .err .transportError)] ∧ t.events = [.transportError .writeError] := by decide

/-! ### A configuration of its own (R10, R14, R300) -/

theorem test_own_built : construct ownCfg = some ⟨ownCfg, State.reset⟩ := by decide +kernel
theorem test_own_opaque_frame :
    (after (stepIn ownCfg ((State.reset.setRx [0x00, 0x07, 0x02, 0x00, 0x81, 0x21, 0xAB, 0xCD]).offer .deframe))).notify =
      [{ id := 0x0700, dest := .host, source := bay0, body := .variableLen 2 (.raw [0xAB, 0xCD]) }] := by decide +kernel
theorem test_own_schema :
    ((after (stepIn ownCfg ((State.reset.setRx
      [0x15, 0x04, 0x05, 0x00, 0x81, 0x21, 0x10, 0x78, 0x56, 0x34, 0x12]).offer .deframe))).chanOf bay0 1).vel =
      some (.record [(.other "Channel", .uint 0x10), (.maxVel, .uint 0x12345678)]) := by decide +kernel
theorem test_own_codes :
    (process ownCfg (queued (.command (.setEnable 1 0x21 true)))).txlog =
      [([0x20, 0x02, 0x10, 0x05, 0x21, 0x01], .ok)] := by decide +kernel
theorem test_own_unregistered :
    let t := process ownCfg (queued (.command (.moveHome 1 0x21)))
    t.results = [(0, .err .schemaViolation)] ∧ t.txlog = [] := by decide +kernel
/-- The configuration above with a kind put in place of the catalogue's kind of its identifier. -/
def withKind (k : Kind) : Cfg := { ownCfg with catalogue := k :: ownCatalogue.filter fun k' => k'.id != k.id }

theorem test_catalogue_accepts_the_five :
    ownCatalogue.all (fun k => (construct (withKind k)).isSome) = true := by decide +kernel
theorem test_catalogue_refuses_bytes0 :
    construct (withKind { vendorKind with schema := .fields [(.notes, .bytes 0)] }) = none ∧
      (construct (withKind { vendorKind with schema := .fields [(.notes, .bytes 1)] })).isSome = true := by decide +kernel
theorem test_catalogue_refuses_variable_0223 :
    construct (withKind { kindModIdentify with shape := .variableLen, schema := .opaqueBytes }) = none := by
  decide +kernel
theorem test_catalogue_refuses_renamed_0223 :
    construct (withKind { kindModIdentify with name := .other "IDENTIFY" }) = none := by decide +kernel
theorem test_catalogue_refuses_0221_answered_otherwise :
    construct (withKind { kindModReqChanenablestate with responses := [0x0415], family := some .vel }) = none := by
  decide +kernel
theorem test_catalogue_refuses_0464_as_command :
    construct (withKind { kindMotMoveCompleted with role := .command }) = none := by decide +kernel

theorem test_catalogue_refuses_0464_to_device :
    construct (withKind { kindMotMoveCompleted with dir := .hostToDevice }) = none := by decide +kernel
theorem test_catalogue_refuses_response_to_device :
    construct (withKind { kindModGetChanenablestate with dir := .hostToDevice }) = none := by decide +kernel
/-- A kind to a device named as a report is only notified (R179): the channel stays `Moving`. -/
theorem test_own_to_device_changes_nothing :
    let cfg := withKind { kindHwDisconnect with dir := .hostToDevice }
    let t := after (stepIn cfg (((inLife .moving).setRx [0x02, 0x00, 0x00, 0x00, 0x01, 0x21]).offer .deframe))
    catalogueWf cfg.catalogue = true ∧ (t.chanOf bay0 1).life = .moving ∧ t.notify.length = 1 := by decide +kernel
/-- `MOT_GET_VELPARAMS` with an opaque payload: the report names no channel (log 26). -/
theorem test_own_unreadable_channel :
    let cfg := withKind { ownVelKind with schema := .opaqueBytes }
    let t := after (stepIn cfg
      ((State.reset.setRx [0x15, 0x04, 0x02, 0x00, 0x81, 0x21, 0x10, 0x00]).offer .deframe))
    catalogueWf cfg.catalogue = true ∧ t.chan = [] ∧ t.notify.length = 1 := by decide +kernel
/-- `MOD_REQ_CHANENABLESTATE` as a variable kind with `Field(ChanIdent)` carries the channel's identifier (R202). -/
theorem test_own_variable_request :
    let k := { kindModReqChanenablestate with
      shape := .variableLen, schema := .fields [(.chanIdent, .uint2)], chanField := .field .chanIdent }
    (process (withKind k) (queued (.command (.getEnable 1 0x21 (some 5))))).txlog =
      [([0x21, 0x02, 0x02, 0x00, 0xA1, 0x01, 0x10, 0x00], .ok)] := by decide +kernel
/-- A channel field of another name gets no identifier: `vals` alone are sent (R202). -/
theorem test_own_other_channel_field :
    let k := { kindMotSetVelparams with
      schema := .fields [(.other "Channel", .uint1), (.maxVel, .uint4)], chanField := .field (.other "Channel") }
    (process (withKind k) (queued (.command (.setVelparams 1 0x21
      (.record [(.other "Channel", .uint 3), (.maxVel, .uint 7)]))))).txlog =
        [([0x13, 0x04, 0x05, 0x00, 0xA1, 0x01, 0x03, 0x07, 0x00, 0x00, 0x00], .ok)] := by decide +kernel
/-- A request operation whose kind has no family opens an entry and delivers no outcome yet (R202, log 25). -/
theorem test_own_request_without_family :
    let k := { kindMotReqVelparams with role := .command, family := none, responses := [] }
    let t := process (withKind k) (queued (.command getVel0))
    catalogueWf (withKind k).catalogue = true ∧ t.pending.map Prod.fst = [0] ∧ t.results = [] := by decide +kernel

/-! ### The channel's life (F1 to F26) -/

theorem test_f2_enable_keeps_motion : lifeAfterSending (.setEnable 1 0x21 true) .moving = .moving := by decide
theorem test_f3_disable : lifeAfterSending (.setEnable 1 0x21 false) .jogging = .disabled := by decide
theorem test_f7_move_home : lifeAfterSending (.moveHome 1 0x21) .enabled = .homing := by decide
theorem test_f8_disabled_stays : lifeAfterSending (.moveHome 1 0x21) .disabled = .disabled := by decide
theorem test_f9_move_relative : lifeAfterSending (.moveRelative 1 0x21) .completed = .moving := by decide
theorem test_f10_move_absolute : lifeAfterSending (.moveAbsolute 1 0x21) .homed = .moving := by decide
theorem test_f11_move_jog : lifeAfterSending (.moveJog 1 0x21 .forward) .enabled = .jogging := by decide
theorem test_f12_move_velocity : lifeAfterSending (.moveVelocity 1 0x21 .forward) .stopped = .moving := by decide
theorem test_f13_move_stop : lifeAfterSending (.moveStop 1 0x21 .immediate) .moving = .moving := by decide
theorem test_f4_report_enabled : lifeAfter (.modGetChanenablestate 1 1 0x01 0x21) .unknown = .enabled := by decide
theorem test_f6_report_other_code : lifeAfter (.modGetChanenablestate 1 7 0x01 0x21) .disabled = .disabled := by decide
theorem test_f14_homed : lifeAfter (.motMoveHomed 1 0 0x01 0x21) .homing = .homed := by decide
theorem test_f15_homed_while_moving : lifeAfter (.motMoveHomed 1 0 0x01 0x21) .moving = .moving := by decide
theorem test_f16_completed : lifeAfter (.motMoveCompleted 0x81 0x21 statusPayload) .moving = .completed := by decide
theorem test_f18_status_written_when_enabled :
    (after (exec (.motMoveCompleted 0x81 0x21 statusPayload) (inLife .enabled))).chanOf bay0 1 =
      { ChannelState.init with life := .enabled, status := some statusFields } := by decide
theorem test_f19_stopped : lifeAfter (.motMoveStopped 0x81 0x21 statusPayload) .homing = .stopped := by decide
theorem test_f20_disconnect : lifeAfter (.hwDisconnect 0 0 0x01 0x21) .moving = .unknown := by decide
theorem test_f21_error_while_homing : lifeAfter (.hwResponse 0 0 0x01 0x21) .homing = .unknown := by decide
theorem test_f22_error_while_moving : lifeAfter (.hwResponse 0 0 0x01 0x21) .moving = .moving := by decide
theorem test_rich_error : lifeAfter (.hwRichresponse 0x81 0x21 (List.replicate 68 0)) .homing = .unknown := by decide
theorem test_f26_other_module :
    lifeAfter (.motMoveCompleted 0x81 0x22 statusPayload) .moving = .moving ∧
      ((after (exec (.motMoveCompleted 0x81 0x22 statusPayload) (inLife .moving))).chanOf bay1 1).status =
        some statusFields := by decide
theorem test_f24_no_such_channel : chanOfIdent testCfg 4 = none ∧ chanOfIdent testCfg 2 = some 2 := by decide

/-! ### The cache updater (R273 to R279) -/

theorem test_cache_vel :
    ((after (exec (.motGetVelparams 0x81 0x21 velPayload) State.reset)).chanOf bay0 1).vel = some velFields := by decide
theorem test_cache_jog :
    ((after (exec (.motGetJogparams 0x81 0x21 (0x01 :: List.replicate 21 0)) State.reset)).chanOf bay0 1).jog.isSome =
      true := by decide
theorem test_cache_lim :
    ((after (exec (.motGetLimswitchparams 0x81 0x21 (0x01 :: List.replicate 15 0)) State.reset)).chanOf bay0 1).lim.isSome =
      true := by decide
theorem test_cache_home :
    ((after (exec (.motGetHomeparams 0x81 0x21 (0x01 :: List.replicate 13 0)) State.reset)).chanOf bay0 1).home.isSome =
      true := by decide
theorem test_cache_rel :
    ((after (exec (.motGetMoverelparams 0x81 0x21 [0x01, 0x00, 0x00, 0x10, 0x00, 0x00]) State.reset)).chanOf bay0 1).rel =
      some (.record [(.chanIdent, .uint 1), (.relativeDistance, .uint 0x1000)]) := by decide
theorem test_cache_abs :
    ((after (exec (.motGetMoveabsparams 0x81 0x21 [0x01, 0x00, 0x00, 0xF0, 0xFF, 0xFF]) State.reset)).chanOf bay0 1).abs =
      some (.record [(.chanIdent, .uint 1), (.absolutePosition, .uint 0xFFFFF000)]) := by decide
theorem test_cache_adc :
    ((after (exec (.motGetAdcinputs 0x81 0x21 [0x34, 0x12, 0x78, 0x56])
      (waitingOn (entry bay0 .adc (.getAdc 2 0x21 none))))).chanOf bay0 2).adc =
      some (.record [(.adcInput1, .uint 0x1234), (.adcInput2, .uint 0x5678)]) := by decide

/-! ### Correlation, busy, cancel, timeout, close (T1 to T15) -/

theorem test_t1_reply :
    let t := after (exec (.modGetChanenablestate 1 1 0x01 0x21) (waitingOn (entry bay0 .enable getEnable0)))
    t.results = [(0, .reply { id := 0x0212, dest := .host, source := bay0, body := .fixed 1 1 })] ∧ t.pending = [] ∧
      t.notify = [] := by decide
theorem test_t2_other_module :
    let t := after (exec (.modGetChanenablestate 1 1 0x01 0x22) (waitingOn (entry bay0 .enable getEnable0)))
    t.results = [] ∧ t.pending.length = 1 ∧ t.notify.length = 1 := by decide
theorem test_t5_before_deadline :
    (expire testCfg 0 ((waitingOn (entry bay0 .enable getEnable0)).setNow 99)).results = [] := by decide
theorem test_t5_at_deadline :
    (expire testCfg 0 ((waitingOn (entry bay0 .enable getEnable0)).setNow 100)).results = [(0, .err .timeout)] := by decide
theorem test_t7_busy :
    let t := process testCfg ((waitingOn (entry bay0 .vel getVel0)).setCmdq [(1, .command (.getVelparams 2 0x21 none))])
    t.results = [(1, .err .busy)] ∧ t.txlog = [] := by decide
/-- The state of T10: tag 0 pending, tag 1 processed under `Wait`. -/
def t10State : State :=
  process waitCfg (((answering .ok).setPending [(0, entry bay0 .vel getVel0)]).setCmdq
    [(1, .command (.getVelparams 2 0x21 none))])
theorem test_t10_deferred : waitTags t10State.waitq = [1] ∧ t10State.txlog = [] := by decide
theorem test_t10_issued_on_reply :
    let t := complete waitCfg 0 .ok t10State
    t.txlog = [([0x14, 0x04, 0x02, 0x00, 0x21, 0x01], .ok)] ∧ t.waitq = [] ∧ t.pending.map Prod.fst = [1] := by decide
theorem test_t11_cancel :
    (process testCfg ((waitingOn (entry bay0 .vel getVel0)).setCmdq [(1, .cancel 0)])).results =
      [(0, .err .cancelled), (1, .ok)] := by decide
theorem test_t12_cancel_nothing : (process testCfg (queued (.cancel 7))).results = [(0, .ok)] := by decide
theorem test_t13_close_order :
    let t := close ((State.reset.setPending [(0, entry bay0 .vel getVel0), (2, entry bay1 .vel getVel0)]).setWaitq
      [(⟨bay0, some .vel⟩, [⟨1, getVel0, []⟩])])
    t.results = [(0, .err .disconnected), (1, .err .disconnected), (2, .err .disconnected)] ∧
      t.events = [.transportError .streamClosed] := by decide
theorem test_s11_close_with_bytes :
    (close (State.reset.setRx [0x23, 0x02])).events = [.truncatedAtClose 2, .transportError .streamClosed] := by decide
theorem test_t15_reconnect : reconnect (State.reset.setConn .closed |>.setNow 7) = State.reset := by decide
theorem test_snapshot_after_reset : getSnapshot testCfg 0x2A 2 State.reset = .ok ChannelState.init := by rfl
theorem test_error_numbers :
    (OpOutcome.err .cancelled).number = 11 ∧ OpOutcome.ok.number = 0 ∧
      (LogEvent.truncatedAtClose 2).code.number = 4 := by decide

/-! ### Witnesses: what meets the hypotheses of each statement -/

/-- `Pending` entries that agree with their operations (for every configuration: they carry their own timeout). -/
def hubEntry : Pending := entry .genericUSB .hubbay (.reqHubBayused 0x50 (some 5))

/-- The reset state with a hub request pending. -/
def hubState : State := waitingOn hubEntry

theorem witness_agrees : ∀ e ∈ hubState.pending, e.2.Agrees := by
  intro e he
  obtain rfl : e = (0, hubEntry) := by simpa [hubState, waitingOn] using he
  exact ⟨rfl, rfl, rfl, rfl, rfl⟩
/-- The hypotheses of HostFixedFramesOnlyNotified, HostSetFramesOnlyNotified, EnableStateReport, ParameterReports,
AdcReport, InformationReplies, HomedReport, CompletedAndStoppedReports, DisconnectReport and ErrorReports, together. -/
theorem witness_frame_statements :
    (∀ e ∈ hubState.pending, e.2.Agrees) ∧ FMap.Rising id hubState.pending ∧ ChanFile.wf hubState.chan ∧
      validate 0x01 = some .host ∧ validate 0x2A = some (.bay 9) ∧ (0xFFFF : Nat) < 2 ^ 16 ∧ (0xFFFFFFFF : Nat) < 2 ^ 32 :=
  ⟨witness_agrees, by decide, by decide, by decide, by decide, by decide, by decide⟩
theorem witness_rising : FMap.Rising id hubState.pending ∧ hubState.pending ≠ [] := by decide
theorem witness_chan_file : ChanFile.wf (inLife .homing).chan ∧ (inLife .homing).chan ≠ [] := by decide
theorem witness_addresses : validate 0x01 = some .host ∧ validate 0x2A = some (.bay 9) ∧ validate 0x50 = some .genericUSB := by
  decide
theorem witness_names_channel :
    NamesChannel Config.cfg 0x01 1 ∧ NamesChannel fourCfg 0x08 4 ∧ ∀ ch, ¬NamesChannel Config.cfg 0x07 ch := by
  refine ⟨⟨rfl, Nat.le_refl 1, Nat.succ_le_succ (Nat.zero_le _)⟩, by unfold NamesChannel; decide, ?_⟩
  rintro ch ⟨h, -⟩
  obtain ⟨e, he, hv⟩ := Option.map_eq_some_iff.1 h
  have hm := List.mem_of_find?_eq_some he
  simp only [Config.cfg, Params.withDefaults, List.mem_cons, List.not_mem_nil, or_false] at hm
  rcases hm with rfl | rfl | rfl | rfl <;> simp at hv

theorem witness_StreamRoundTrip : (Instr.motGetVelparams 0x81 0x21 (List.replicate 65535 0)).lengthFits = true := by
  simp only [Instr.lengthFits, Instr.raw, List.length_replicate]; decide
theorem witness_StreamDecodeIsExact :
    fetch [0x06, 0x00, 0x00, 0x00, 0x81, 0x21, 0xFF] = .frame (.hwGetInfo 0x81 0x21 []) [0xFF] := by decide
theorem witness_FrameRoundTrip :
    catalogueWf catalogue = true ∧ catalogueWf ownCatalogue = true ∧ vendorKind ∈ ownCatalogue ∧
      fieldsError vendorKind.schema (.values (.raw [0xAB])) = none ∧ kindMotGetAdcinputs ∈ catalogue ∧ ModuleAddress.host ≠ bay0 ∧
      fieldsError kindMotGetAdcinputs.schema
        (.values (.record [(.adcInput1, .uint 0xFFFF), (.adcInput2, .uint 0)])) = none ∧
      kindModIdentify ∈ catalogue ∧ fieldsError kindModIdentify.schema (.params [0xFF, 0]) = none := by decide +kernel
theorem witness_EncodedFrameLayout_fixed :
    encodeFrame catalogue 0x0223 0x21 0x01 (.params [0, 0xFF]) = .ok [0x23, 0x02, 0x00, 0xFF, 0x21, 0x01] := by rfl
theorem witness_EncodedFrameLayout_variable :
    encodeFrame catalogue 0x042C 0x01 0x50 (.values (.record [(.adcInput1, .uint 0xFFFF), (.adcInput2, .uint 0)])) =
      .ok [0x2C, 0x04, 0x04, 0x00, 0x81, 0x50, 0xFF, 0xFF, 0x00, 0x00] := by rfl
theorem witness_EncodedFrameLayout_opaque :
    encodeFrame ownCatalogue 0x0700 0x21 0x01 (.values (.raw [0xAB])) =
      .ok [0x00, 0x07, 0x01, 0x00, 0xA1, 0x01, 0xAB] := by rfl
theorem witness_EncodeChecksInOrder_addresses :
    lookup catalogue 0xFFFF = none ∧ lookup catalogue 0x0223 = some kindModIdentify ∧ validate 0x2B = none ∧ validate 0x21 = some bay0 ∧
      validate 0x81 = none ∧ validate 0x01 = some .host ∧ bay0 ≠ .host := by decide
theorem witness_EncodeChecksInOrder_fixed :
    kindModIdentify.schema = .fixed2 ∧ (∀ p1 p2, FrameFields.params [0] ≠ .params [p1, p2]) ∧ 0xFF < 0x100 ∧
      0xFF ≤ 0xFF := by
  refine ⟨rfl, fun p1 p2 h => ?_, by decide, by decide⟩
  simp at h
theorem witness_EncodeChecksInOrder_fields :
    lookup catalogue 0x042C = some kindMotGetAdcinputs ∧ kindMotGetAdcinputs.schema = .fields schemaAdc ∧
      ([(FieldName.adcInput1, FieldValue.uint 0)].map Prod.fst ≠ schemaAdc.map Prod.fst) ∧
      schemaAdc.zip [(FieldName.adcInput1, FieldValue.uint 0xFFFF), (FieldName.adcInput2, FieldValue.uint 0x10000)] =
        [((FieldName.adcInput1, FieldType.uint2), (FieldName.adcInput1, FieldValue.uint 0xFFFF))] ++
          ((FieldName.adcInput2, FieldType.uint2), (FieldName.adcInput2, FieldValue.uint 0x10000)) :: [] ∧
      FieldType.uint2.fits (.uint 0xFFFF) = true ∧ FieldType.uint2.fits (.uint 0x10000) = false := by decide
theorem witness_EncodeChecksInOrder_opaque :
    lookup ownCatalogue 0x0700 = some vendorKind ∧ vendorKind.schema = .opaqueBytes ∧ 65535 < (List.replicate 65536 (0 : Byte)).length ∧ (List.replicate 65535 (0 : Byte)).length ≤ 65535 := by
  simp only [List.length_replicate]; decide +kernel
theorem witness_DecodeChecksInOrder_short :
    [(0x23 : Byte)].length < 2 ∧ lookup catalogue (le16 0xFF 0xFF) = none ∧ lookup catalogue (le16 0x23 0x02) = some kindModIdentify ∧
      [(0x00 : Byte), 0x00, 0x21].length < 4 := by decide
theorem witness_DecodeChecksInOrder_length :
    kindModIdentify.shape = .fixed ∧ [(0xFF : Byte)] ≠ [] ∧ lookup catalogue (le16 0x15 0x04) = some kindMotGetVelparams ∧
      kindMotGetVelparams.shape = .variableLen ∧ (velPayload.take 13).length < (le16 0x0E 0x00).toNat ∧
      (le16 0x0D 0x00).toNat < velPayload.length ∧ kindMotGetVelparams.schema = .fields schemaVel ∧
      (velPayload.take 13).length = (le16 0x0D 0x00).toNat ∧ 13 < schemaWidth schemaVel ∧
      schemaWidth schemaVel < (0x00 :: velPayload).length ∧ velPayload.length = (le16 0x0E 0x00).toNat ∧
      velPayload.length = schemaWidth schemaVel := by decide
theorem witness_DecodeChecksInOrder_addresses :
    (0xA1 : Byte).msb ≠ (Shape.fixed == .variableLen) ∧ (0x21 : Byte).msb ≠ (Shape.variableLen == .variableLen) ∧
      (0x2B : Byte).msb = (Shape.fixed == .variableLen) ∧ validate (0x2B &&& 0x7F) = none ∧
      validate (0xA1 &&& 0x7F) = some bay0 ∧ validate 0x81 = none ∧ validate 0x01 = some .host := by decide
theorem witness_PayloadFieldsInDeclaredOrder :
    let vs := [(FieldName.adcInput1, FieldValue.uint 0xFFFF), (.adcInput2, .uint 0)]
    vs.map Prod.fst = schemaAdc.map Prod.fst ∧ (∀ e ∈ schemaAdc.zip vs, e.1.2.fits e.2.2 = true) ∧
      [(0xFF : Byte), 0xFF, 0, 0].length = schemaWidth schemaAdc := by decide
theorem witness_WellFormedInstructionsDecode :
    (Instr.modIdentify 0 0 0x2B 0x01).lengthFits = true ∧ (Instr.modIdentify 0 0 0x21 0x01).lengthFits = true := by
  decide
theorem witness_CatalogueIsWellFormed : catalogueWf [kindModIdentify] = false ∧ catalogueWf ownCatalogue = true := by
  decide +kernel
theorem witness_StepIsTheDefaultBlock :
    let s := (State.reset.setRx [0x00, 0x07, 0x01, 0x00, 0x81, 0x21, 0xAB, 0x23]).offer .deframe
    s.env.drawEvent = (.deframe, State.reset.env) ∧ s.conn = .opened ∧
      cut ownCfg.catalogue s.rx = .frame vendorKind (.variableLen 0x81 0x21 [0xAB]) [0x23] ∧
      vendorKind.shape = .variableLen ∧ vendorKind.schema = .opaqueBytes ∧ validate 0x01 = some .host ∧
      validate 0x21 = some bay0 := by decide +kernel
/-- A `Process` event with an operation queued and with none, and a kind from the host. -/
theorem witness_StepIsTheDefaultBlock_process :
    let s := (queued (.cancel 7)).offer .process
    s.env.drawEvent = (.process, (queued (.cancel 7)).env) ∧ (State.reset.offer .process).cmdq = [] ∧
      (State.reset.offer .process).env.drawEvent = (.process, State.reset.env) ∧
      (after (step s)).results = [(0, .ok)] ∧ kindMotMoveStop.dir = .hostToDevice := by decide
theorem witness_StepRunsInstruction :
    let s := State.reset.withFetchWord 48 0x012100000223
    s.env.drawEvent = (.deframe, State.reset.env) ∧ s.conn = .opened ∧
      fetch s.rx = .frame (.modIdentify 0 0 0x21 0x01) [] := by decide
theorem witness_UnknownIdentifierDropsOneByte :
    let s := State.reset.setRx [0x00, 0x23]
    s.conn = .opened ∧ s.rx = [0x00, 0x23] ∧ lookup catalogue (le16 0x00 0x23) = none := by decide
theorem witness_DeframerHoldsUntilReady :
    ready catalogue (State.reset.setRx [0x23, 0x02, 0x00, 0x00, 0x21]).rx = false ∧
      ready catalogue [0x23, 0x02, 0x00, 0x00, 0x21, 0x01] = true ∧
      ready ownCatalogue [0x00, 0x07, 0x01, 0x00, 0x81, 0x21] = false ∧
      (State.reset.setConn .closed).conn = .closed := by decide +kernel
theorem witness_FramingErrorsOnlyLogged :
    (Instr.modIdentify 0 0 0xA1 0x01).check = .error (.malformedAddressBit 0x0223 0xA1) ∧
      fetch (State.reset.setRx [0x23, 0x02, 0x00, 0x00, 0xA1, 0x01]).rx = .frame (.modIdentify 0 0 0xA1 0x01) [] ∧
      fetch (State.reset.setRx [0xFF, 0xFF]).rx = .unknown 0xFFFF := ⟨rfl, by decide, by decide⟩
theorem witness_DeframeRemovesPrefix :
    (after (step ((State.reset.setRx [0x02, 0x00, 0x00, 0x00, 0x01, 0x21, 0x23]).offer .deframe))).rx = [0x23] := by
  decide
theorem witness_ReceiveAppends : State.reset.conn = .opened ∧ (State.reset.setConn .closed).conn = .closed := by decide

/-- A frame of `m` with the given identifier and body. -/
def frameFrom (m : ModuleAddress) (id : MsgId) (body : FrameBody) : Frame :=
  { id := id, dest := .host, source := m, body := body }

/-- Each frame that can end an entry: unsolicited at reset, and the answer to the entry of its request, with nothing
deferred on the entry's key. -/
theorem witness_Delivers (m : ModuleAddress) (body : FrameBody) :
    ∀ x ∈ [((0x0212 : MsgId), Family.enable, Command.getEnable 1 0x21 (some 5)), (0x0415, .vel, .getVelparams 1 0x21 none),
        (0x0418, .jog, .getJogparams 1 0x21 none), (0x0442, .home, .getHomeparams 1 0x21 none),
        (0x0425, .lim, .getLimswitchparams 1 0x21 none), (0x0447, .rel, .getMoverelparams 1 0x21 none),
        (0x0452, .abs, .getMoveabsparams 1 0x21 none), (0x042C, .adc, .getAdc 1 0x21 none),
        (0x0006, .hwinfo, .reqHwInfo 0x21 none), (0x0061, .rackbay, .reqRackBayused 0x21 9 none),
        (0x0066, .hubbay, .reqHubBayused 0x21 none)],
      State.reset.Unsolicited (frameFrom m x.1 body) ∧
        (waitingOn (entry m x.2.1 x.2.2)).Answers (frameFrom m x.1 body) 0 (entry m x.2.1 x.2.2) ∧
        (waitingOn (entry m x.2.1 x.2.2)).waiting (entry m x.2.1 x.2.2).key = [] := by
  intro x hx
  fin_cases hx <;>
    simp [State.Unsolicited, State.Answers, State.waiting, waitingOn, State.reset, FMap.get?, entry, newPending, frameFrom,
      Command.row, Command.kindName, testCfg, kindModReqChanenablestate, kindMotReqVelparams, kindMotReqJogparams, kindMotReqHomeparams,
      kindMotReqLimswitchparams, kindMotReqMoverelparams, kindMotReqMoveabsparams, kindMotReqAdcinputs, kindHwReqInfo,
      kindRackReqBayused, kindHubReqBayused, State.setPending]
/-- The same with a request deferred on the answered entry's key. -/
def deferredBehind (p : Pending) : State := (waitingOn p).setWaitq [(p.key, [⟨1, getVel0, []⟩])]
theorem witness_Delivers_deferred :
    let p := entry bay0 .vel getVel0
    let s := deferredBehind p
    FMap.Rising id s.pending ∧ s.Answers (frameFrom bay0 0x0415 (.variableLen 14 velFields)) 0 p ∧
      s.waiting p.key = [⟨1, getVel0, []⟩] := by
  refine ⟨by decide, ⟨List.mem_cons_self, by decide, rfl, ?_⟩, by decide⟩
  intro e _ _ _
  exact Nat.zero_le _
/-- The reply is delivered, the cache of channel 1 is written and the deferred request is written next. -/
theorem test_reply_with_deferred :
    let t := after (exec (.motGetVelparams 0x81 0x21 velPayload) (deferredBehind (entry bay0 .vel getVel0)
      |>.setEnv { agenda := [], answers := [.ok], draws := 0 }))
    t.results = [(0, .reply (frameFrom bay0 0x0415 (.variableLen 14 velFields)))] ∧
      (t.chanOf bay0 1).vel = some velFields ∧ t.waitq = [] ∧ t.pending.map Prod.fst = [1] ∧ t.notify = [] := by
  decide +kernel
theorem witness_AdcReport_channel :
    (entry bay0 .adc (.getAdc 2 0x21 none)).channel = some 2 ∧
      ({ entry bay0 .adc (.getAdc 2 0x21 none) with channel := none } : Pending).channel = none := by decide
theorem witness_EveryFrameAnswersOrNotifies :
    (Instr.modGetChanenablestate 1 1 0x01 0x21).check = .ok (frameFrom bay0 0x0212 (.fixed 1 1)) := by rfl
theorem witness_RepliesNeverCrossMatch :
    let p := entry bay0 .enable getEnable0
    let q := entry bay0 .vel getVel0
    FMap.Rising id [(0, p), (1, q)] ∧ (1, q) ∈ (State.reset.setPending [(0, p), (1, q)]).pending ∧
      (frameFrom bay0 0x0212 (.fixed 1 1)).id ∉ q.respIds ∧ (frameFrom bay1 0x0212 (.fixed 1 1)).source ≠ p.dest := by
  decide
theorem witness_SubscriptionDoesNotGateDispatch :
    ∀ f, (Instr.motMoveHomed 1 0 0x01 0x21).check = .ok f → hubState.Unsolicited f := by
  intro f hf
  obtain rfl : f = frameFrom bay0 0x0444 (.fixed 1 0) := by
    have h : (Instr.motMoveHomed 1 0 0x01 0x21).check = .ok (frameFrom bay0 0x0444 (.fixed 1 0)) := rfl
    rw [h] at hf; exact (Except.ok.inj hf).symm
  simp [State.Unsolicited, hubState, waitingOn, hubEntry, entry, newPending, Command.row, Command.kindName, testCfg,
    kindHubReqBayused, frameFrom,
    State.setPending, State.reset]

theorem witness_FireCommandsSend :
    fourCfg.catalogue = catalogue ∧ validate 0x21 = some bay0 ∧ bay0 ≠ .host ∧ fourCfg.chanIdent 4 = some 8 ∧ 8 < 2 ^ 8 ∧
      1 ≤ 4 ∧ 4 ≤ fourCfg.numChannels := ⟨rfl, by decide, by decide, rfl, by decide, by decide, by decide⟩
/-- The state in which a command is about to be processed, its write answered `ok`, with another request pending. -/
theorem witness_Fires (c : Command) :
    let s := ((answering .ok).setCmdq [(1, .command c)]).setPending [(0, hubEntry)]
    s.conn = .opened ∧ s.cmdq = (1, .command c) :: [] ∧ s.nextAnswer = .ok := ⟨rfl, rfl, rfl⟩
theorem witness_SetParametersSend :
    let cfg : Cfg := { testCfg with chanIdents := [(2, 0xFFFF)] }
    cfg.catalogue = catalogue ∧ cfg.chanIdent 2 = some 0xFFFF ∧ 0xFFFF < 2 ^ 16 ∧ 2 ≤ cfg.numChannels ∧
      (0xFFFFFFFF : Nat) < 2 ^ 32 := ⟨rfl, rfl, by decide, by decide, by decide⟩
theorem witness_RequestsOpenEntries :
    testCfg.catalogue = catalogue ∧ testCfg.chanIdent 2 = some 2 ∧ 1 ≤ (some 1 : Option Ticks).getD testCfg.defaultTimeout ∧ 1 ≤ (none : Option Ticks).getD testCfg.defaultTimeout ∧
      (9 : Byte).toNat < 10 := ⟨rfl, rfl, by decide, by decide, by decide⟩
theorem witness_Opens :
    let s := ((answering .ok).setCmdq [(1, .command getVel0)]).setPending [(0, hubEntry)]
    s.nextAnswer = .ok ∧ FMap.Rising id s.pending ∧ ∀ e ∈ s.pending, e.2.key ≠ (entry bay0 .vel getVel0).key := by decide
theorem witness_InputErrorsBeforeAnyIO_commands :
    checkInputs testCfg ((Command.identify 1 0x2B).row testCfg) = .error (.invalidAddress 0x2B) ∧
      checkInputs testCfg ((Command.identify 1 0x01).row testCfg) = .error (.selfAddressed 0x01) ∧
      checkInputs testCfg ((Command.identify 0 0x21).row testCfg) = .error (.schemaViolation (.channel 0)) ∧
      checkInputs testCfg ((Command.identify 3 0x21).row testCfg) = .error (.schemaViolation (.channel 3)) ∧
      checkInputs fourCfg ((Command.identify 4 0x21).row fourCfg) = .ok bay0 ∧
      checkInputs { fourCfg with extraChannels := 4 } ((Command.identify 5 0x21).row testCfg) =
        .error (.schemaViolation (.channel 5)) ∧
      checkInputs testCfg ((Command.reqRackBayused 0x11 10 none).row testCfg) = .error (.schemaViolation (.bay 10)) ∧
      checkInputs testCfg ((Command.reqRackBayused 0x11 9 none).row testCfg) = .ok .motherboard ∧
      checkInputs testCfg ((Command.reqHubBayused 0x50 (some 0)).row testCfg) = .error (.schemaViolation .timeout) ∧
      checkInputs testCfg ((Command.reqHubBayused 0x50 (some 1)).row testCfg) = .ok .genericUSB :=
  ⟨rfl, rfl, rfl, rfl, rfl, rfl, rfl, rfl, rfl, rfl⟩
theorem witness_ClosedConnectionRefuses :
    let s := ((queued (.command (.identify 1 0x21))).setConn .closed)
    s.cmdq = [(0, .command (.identify 1 0x21))] ∧ checkInputs testCfg ((Command.identify 1 0x21).row testCfg) = .ok bay0 ∧
      s.conn = .closed := ⟨rfl, rfl, rfl⟩
/-- The velocity values without the last one, and with a last one that does not fit. -/
def shortValues : List (FieldName × FieldValue) := [(.minVel, .uint 0), (.accn, .uint 0x90)]
def wideValues : List (FieldName × FieldValue) := shortValues ++ [(.maxVel, .uint 0x100000000)]
/-- The velocity schema after `ChanIdent`. -/
def velRest : List (FieldName × FieldType) := [(.minVel, .uint4), (.accn, .uint4), (.maxVel, .uint4)]
theorem witness_OperandErrorsBeforeAnyIO :
    catalogueWf testCfg.catalogue = true ∧ kindMotSetVelparams.chanField = .field .chanIdent ∧
    checkInputs testCfg ((Command.setVelparams 1 0x21 (.record shortValues)).row testCfg) = .ok bay0 ∧
      checkInputs testCfg ((Command.setVelparams 1 0x21 (.record wideValues)).row testCfg) = .ok bay0 ∧
      ((Command.setVelparams 1 0x21 (.record wideValues)).row testCfg).args = .values (.record wideValues) ∧
      kindMotSetVelparams.schema = .fields ((.chanIdent, .uint2) :: velRest) ∧
      shortValues.map Prod.fst ≠ velRest.map Prod.fst ∧
      (∃ e ∈ velRest.zip wideValues, e.1.2.fits e.2.2 = false) :=
  ⟨by decide +kernel, rfl, rfl, rfl, rfl, rfl, by decide, by decide⟩
/-- A channel whose identifier has no place in a params pair. -/
def wideIdentCfg : Cfg := { testCfg with chanIdents := [(2, 0x100)] }
/-- `MOT_SET_VELPARAMS` with an opaque payload, with its channel's identifier last, and with a channel field of another
name. -/
def opaqueVelKind : Kind := { kindMotSetVelparams with schema := .opaqueBytes, chanField := .none }
def lateVelKind : Kind := { kindMotSetVelparams with schema := .fields [(.maxVel, .uint4), (.chanIdent, .uint2)] }
def namedVelKind : Kind :=
  { kindMotSetVelparams with
      schema := .fields [(.other "Channel", .uint1), (.maxVel, .uint4)], chanField := .field (.other "Channel") }
theorem witness_OperandErrorsBeforeAnyIO_pair :
    let r := (Command.moveHome 2 0x21).row wideIdentCfg
    r.kind.shape = .fixed ∧ r.args = .chan 0 ∧ r.ch = some 2 ∧ wideIdentCfg.chanIdent 2 = some 0x100 ∧ 0xFF < 0x100 ∧
      checkInputs wideIdentCfg r = .ok bay0 ∧ (named wideIdentCfg.catalogue .motMoveHome).isSome = true ∧
      ((Command.identify 1 0x21).row testCfg).args = .zero ∧
      ((Command.reqRackBayused 0x11 9 none).row testCfg).args = .bay 9 :=
  ⟨rfl, rfl, rfl, rfl, by decide, rfl, rfl, rfl, rfl⟩
theorem witness_OperandErrorsBeforeAnyIO_missing :
    named ownCfg.catalogue .motMoveHome = none ∧ ownCfg.chanIdent 1 = some 0x10 ∧
      checkInputs ownCfg ((Command.moveHome 1 0x21).row ownCfg) = .ok bay0 :=
  ⟨rfl, rfl, rfl⟩
theorem witness_OperandErrorsBeforeAnyIO_raw :
    kindMotSetVelparams.schema = .fields ((.chanIdent, .uint2) :: velRest) ∧
      ((Command.setVelparams 1 0x21 (.raw [])).row testCfg).args = .values (.raw []) ∧
      checkInputs testCfg ((Command.setVelparams 1 0x21 (.raw [])).row testCfg) = .ok bay0 := ⟨rfl, rfl, rfl⟩
theorem witness_OperandErrorsBeforeAnyIO_opaque :
    let c := Command.setVelparams 1 0x21 (.raw (List.replicate 65536 0))
    catalogueWf (withKind opaqueVelKind).catalogue = true ∧
      (c.row (withKind opaqueVelKind)).kind.schema = .opaqueBytes ∧
      (c.row (withKind opaqueVelKind)).args = .values (.raw (List.replicate 65536 0)) ∧
      65535 < (List.replicate 65536 (0 : Byte)).length ∧
      checkInputs (withKind opaqueVelKind) (c.row (withKind opaqueVelKind)) = .ok bay0 := by
  refine ⟨by decide +kernel, rfl, rfl, ?_, rfl⟩
  rw [List.length_replicate]; decide
/-- Where the channel's identifier goes: in the place of `ChanIdent`, and nowhere for a channel field of another name. -/
theorem witness_OperandErrorsBeforeAnyIO_fields :
    let c := Command.setVelparams 1 0x21 (.record [(.maxVel, .uint 7)])
    named (withKind lateVelKind).catalogue .motSetVelparams = some lateVelKind ∧
      lateVelKind.chanField = .field .chanIdent ∧
      (c.row (withKind lateVelKind)).args = .values (.record ([(.maxVel, .uint 7)] ++ [])) ∧
      (∀ f ∈ [((.maxVel : FieldName), FieldType.uint4)], f.1 ≠ .chanIdent) ∧
      named (withKind namedVelKind).catalogue .motSetVelparams = some namedVelKind ∧
      namedVelKind.shape = .variableLen ∧ namedVelKind.chanField ≠ .field .chanIdent := by
  refine ⟨rfl, rfl, rfl, ?_, rfl, rfl, by decide⟩
  decide
theorem witness_BusyKeyRule :
    let s := ((answering .ok).setCmdq [(1, .command getVel0)]).setPending [(0, entry bay0 .vel getVel0)]
    let s' := ((answering .ok).setCmdq [(1, .command getVel0)]).setPending [(0, hubEntry)]
    checkInputs testCfg (getVel0.row testCfg) = .ok bay0 ∧ s.conn = .opened ∧
      (getVel0.row testCfg).encoded testCfg =
        .ok [0x14, 0x04, 0x01, 0x00, 0x21, 0x01] ∧
      (getVel0.row testCfg).requestKey bay0 = some ⟨bay0, some .vel⟩ ∧ (∃ e ∈ s.pending, e.2.key = ⟨bay0, some .vel⟩) ∧
      testCfg.busyPolicy = .failFast ∧ waitCfg.busyPolicy = .wait ∧
      (∀ e ∈ s'.pending, e.2.key ≠ ⟨bay0, some .vel⟩) ∧ s'.nextAnswer = .ok :=
  ⟨rfl, rfl, rfl, rfl, by decide, rfl, rfl, by decide, rfl⟩
theorem witness_WriteErrorCloses :
    let s := ((answering .error).setCmdq [(1, .command getVel0)]).setPending [(0, hubEntry)]
    (answering .ok).nextAnswer = .ok ∧ ChanFile.wf s.chan ∧ s.nextAnswer = .error ∧ s.conn = .opened ∧
      checkInputs testCfg (getVel0.row testCfg) = .ok bay0 ∧
      (getVel0.row testCfg).encoded testCfg =
        .ok [0x14, 0x04, 0x01, 0x00, 0x21, 0x01] ∧
      (∀ key, (getVel0.row testCfg).requestKey bay0 = some key → ∀ e ∈ s.pending, e.2.key ≠ key) := by
  refine ⟨rfl, by decide, rfl, rfl, rfl, rfl, ?_⟩
  rintro key ⟨⟩
  decide
theorem witness_CancelRule :
    let q := State.reset.setCmdq [(1, .cancel 0)]
    let d := ((waitingOn (entry bay0 .vel getVel0)).setCmdq [(2, .cancel 1)]).setWaitq
      [(⟨bay0, some .vel⟩, [⟨1, getVel0, []⟩])]
    FMap.get? (q.setPending [(0, hubEntry)]).pending 0 = some hubEntry ∧
      (q.setPending [(0, hubEntry)]).waiting hubEntry.key = [] ∧ FMap.get? d.pending 1 = none ∧ 1 ∈ waitTags d.waitq ∧
      FMap.Rising BusyKey.rank d.waitq ∧ FMap.get? q.pending 0 = none ∧ 0 ∉ waitTags q.waitq := by decide
theorem witness_ExpireRule :
    FMap.get? (hubState.setNow 5).pending 0 = some hubEntry ∧ hubEntry.deadline ≤ (hubState.setNow 5).now ∧
      (hubState.setNow 5).waiting hubEntry.key = [] ∧ (hubState.setNow 4).now < hubEntry.deadline ∧
      FMap.get? hubState.pending 7 = none := by decide
theorem witness_CompletionIssuesNext :
    let w := [((⟨bay0, some .vel⟩ : BusyKey), [(⟨1, getVel0, []⟩ : Deferred)])]
    t10State.conn = .opened ∧ ((answering .ok).setWaitq w).waiting (entry bay0 .vel getVel0).key = [⟨1, getVel0, []⟩] ∧
      ((answering .ok).setWaitq w).nextAnswer = .ok ∧ ((answering .error).setWaitq w).nextAnswer = .error ∧
      ChanFile.wf ((answering .error).setWaitq w).chan ∧ FMap.Rising BusyKey.rank w ∧
      FMap.Rising id t10State.pending := by decide
theorem witness_CloseStep : (inLife .moving).conn = .opened ∧ ChanFile.wf (inLife .moving).chan := by decide
theorem witness_ReconnectResets :
    (State.reset.setConn .closed).conn = .closed ∧ (State.reset.setConn .closed).cmdq = [] ∧ State.reset.conn = .opened ∧
      (queued (.cancel 7)).cmdq ≠ [] := by decide
theorem witness_TickSetsTime : (State.reset.setNow 7).now ≤ 7 ∧ 6 < (State.reset.setNow 7).now := by decide
theorem witness_SnapshotReads :
    validate 0x2B = none ∧ validate 0x50 = some .genericUSB ∧ (0 < 1 ∨ testCfg.numChannels < 0) ∧
      (3 < 1 ∨ testCfg.numChannels < 3) ∧ 1 ≤ 2 ∧ 2 ≤ testCfg.numChannels := by decide
/-- A state that meets the invariant with an operation queued and a request pending, and a step from it. -/
def invState : State :=
  { State.reset with pending := [(0, hubEntry)], cmdq := [(1, .cancel 0)], nextTag := 2,
                     chan := [(⟨bay0, 1⟩, { ChannelState.init with life := .homing })],
                     txlog := [([0x65, 0x00, 0x00, 0x00, 0x50, 0x01], .ok)] }
theorem witness_StepKeepsInvariant :
    invState.Inv ∧ ∃ t, step (invState.offer .process) = .next t ∧ t.results = [(0, .err .cancelled), (1, .ok)] := by
  refine ⟨?_, _, rfl, by decide⟩
  refine
    { pendingRising := by decide, waitqRising := by decide, waitqFilled := by decide, chanForm := by decide,
      chanInRange := ?_, onePending := by unfold State.OnePending; decide, deferredBusy := by decide,
      failFast := fun _ => rfl, pendingAgrees := witness_agrees, deferredAgrees := by simp [invState, State.reset],
      outcomeOnce := ?_, closedQuiet := ⟨nofun, nofun, nofun, nofun, nofun⟩ }
  · intro e he
    obtain rfl : e = (⟨bay0, 1⟩, { ChannelState.init with life := .homing }) := by simpa [invState] using he
    exact ⟨Nat.le_refl 1, Nat.succ_le_succ (Nat.zero_le _)⟩
  · intro t
    match t with
    | 0 => rfl
    | 1 => rfl
    | t + 2 => simp [State.tags, invState, State.reset, waitTags]
theorem witness_StepKeepsSafe :
    invState.Safe ∧ ∃ t, step (invState.offer .process) = .next t ∧ t.txlog = invState.txlog := by
  refine ⟨⟨witness_StepKeepsInvariant.1, ?_⟩, _, rfl, by decide⟩
  intro e he
  obtain rfl : e = ([0x65, 0x00, 0x00, 0x00, 0x50, 0x01], .ok) := by simpa [invState] using he
  exact ⟨{ id := 0x0065, dest := .genericUSB, source := .host, body := .fixed 0 0 }, rfl, rfl, by decide⟩
theorem witness_Reachable :
    Reachable (State.reset.setEnv { agenda := [.tick 3], answers := [], draws := 0 }) ∧
      ∃ t, Reachable t ∧ t.now = 3 :=
  ⟨.reset _, _, .step (.reset { agenda := [.tick 3], answers := [], draws := 0 }) rfl, rfl⟩
/-- A hub request accepted and processed. -/
def hubAgenda : List Event := [.accept (.command (.reqHubBayused 0x50 (some 5))), .process]
theorem witness_ReachableStatesHaveOnePendingPerKey :
    ∃ t, Reachable t ∧ t.pending.length = 1 ∧ t.txlog.length = 1 :=
  ⟨_, .step (.step (.reset { agenda := hubAgenda, answers := [.ok], draws := 0 }) rfl) rfl, rfl, rfl⟩
theorem witness_HistoriesAndTimeOnlyGrow :
    (after (step (State.reset.offer (.tick 3)))).now = 3 ∧
      ((State.reset.setConn .closed).offer .reconnect).env.drawEvent.1 = .reconnect ∧
      after (step ((State.reset.setConn .closed).offer .reconnect)) = State.reset := by decide
theorem witness_OneWritePerStep : ∃ t, step (State.reset.offer .close) = .next t ∧ t.txlog = [] := ⟨_, rfl, rfl⟩
theorem witness_LifeFollowsStateMachine :
    ChanFile.wf (inLife .homing).chan ∧ ∃ t, step ((inLife .homing).offer .close) = .next t := ⟨by decide, _, rfl⟩
theorem witness_CachesWrittenByReportsOnly :
    ChanFile.wf (inLife .homing).chan ∧ Event.close ≠ .deframe ∧ Event.close ≠ .reconnect ∧
      ∃ t, step ((inLife .homing).offer .close) = .next t := ⟨by decide, by decide, by decide, _, rfl⟩

end Sys2Proof.Tests
end

section
/-! PROOFS. What each operation of the transaction engine can do, said once per operation with the guards of its cases;
and the induction over runs. The invariants of the block are derived from these. -/

namespace Sys2Proof.Machine

variable {cfg : Cfg} {s : State}

/-! ### Operations on a pending transaction -/

theorem issueNext_cases (cfg : Cfg) (key : BusyKey) (s : State) :
    (∃ d rest, s.conn = .opened ∧ s.waiting key = d :: rest ∧
      issueNext cfg key s = issue cfg key d.tag d.op d.bytes (s.setWaitq (waitSet s.waitq key rest))) ∨
    ((s.conn = .closed ∨ s.waiting key = []) ∧ issueNext cfg key s = s) := by
  unfold issueNext
  cases hc : s.conn <;> cases hw : s.waiting key <;> simp

theorem complete_cases (cfg : Cfg) (t : Tag) (o : OpOutcome) (s : State) :
    (∃ p, FMap.get? s.pending t = some p ∧ complete cfg t o s = finish cfg t p o s) ∨
    (FMap.get? s.pending t = none ∧ complete cfg t o s = s) := by
  unfold complete
  cases h : FMap.get? s.pending t <;> simp

theorem expire_cases (cfg : Cfg) (t : Tag) (s : State) :
    (∃ p, FMap.get? s.pending t = some p ∧ p.deadline ≤ s.now ∧
      expire cfg t s = finish cfg t p (.err .timeout) s) ∨
    ((∀ p, FMap.get? s.pending t = some p → s.now < p.deadline) ∧ expire cfg t s = s) := by
  unfold expire
  cases h : FMap.get? s.pending t with
  | none => simp
  | some p =>
    by_cases hd : p.deadline ≤ s.now
    · simp [hd, complete_of_get? (cfg := cfg) (.err .timeout) h]
    · simp [hd, Nat.lt_of_not_le hd]

theorem doCancel_cases (cfg : Cfg) (t target : Tag) (s : State) :
    (∃ p, FMap.get? s.pending target = some p ∧
      doCancel cfg t target s = (finish cfg target p (.err .cancelled) s).pushResult t .ok) ∨
    (FMap.get? s.pending target = none ∧ target ∈ waitTags s.waitq ∧ doCancel cfg t target s =
      ((s.setWaitq (waitRemove target s.waitq)).pushResult target (.err .cancelled)).pushResult t .ok) ∨
    (FMap.get? s.pending target = none ∧ target ∉ waitTags s.waitq ∧
      doCancel cfg t target s = s.pushResult t .ok) := by
  unfold doCancel
  cases h : FMap.get? s.pending target with
  | some p => simp
  | none => by_cases hw : target ∈ waitTags s.waitq <;> simp [hw]

/-! ### Processing an operation -/

theorem doFire_cases (t : Tag) (c : Command) (m : ModuleAddress) (bytes : List Byte) (s : State) :
    (s.nextAnswer = .ok ∧
      doFire t c m bytes s = (applyOutbound c m (s.answered.pushTx bytes .ok)).pushResult t .ok) ∨
    (s.nextAnswer = .error ∧ doFire t c m bytes s =
      (doClose .writeError (s.answered.pushTx bytes .error)).pushResult t (.err .transportError)) := by
  unfold doFire
  cases h : s.nextAnswer with
  | ok => simp [send_of_ok bytes h]
  | error => simp [send_of_error bytes h]

theorem doRequest_cases (cfg : Cfg) (key : BusyKey) (t : Tag) (c : Command) (bytes : List Byte) (s : State) :
    (s.busy key = true ∧ cfg.busyPolicy = .failFast ∧
      doRequest cfg key t c bytes s = s.pushResult t (.err .busy)) ∨
    (s.busy key = true ∧ cfg.busyPolicy = .wait ∧ doRequest cfg key t c bytes s =
      s.setWaitq (waitSet s.waitq key (s.waiting key ++ [⟨t, c, bytes⟩]))) ∨
    ((∀ e ∈ s.pending, e.2.key ≠ key) ∧ doRequest cfg key t c bytes s = issue cfg key t c bytes s) := by
  cases hb : s.busy key with
  | true => cases hp : cfg.busyPolicy <;> simp [doRequest, hb, hp]
  | false =>
    have hfree : ∀ e ∈ s.pending, e.2.key ≠ key := fun e he hk =>
      Bool.false_ne_true (hb.symm.trans ((busy_iff s key).2 ⟨e, he, hk⟩))
    exact .inr (.inr ⟨hfree, doRequest_of_free t c bytes hfree⟩)

/-- A command is turned away with an error, sent as fire-and-forget, or sent as a request; it is sent only past every
check of R202. -/
theorem runCommand_cases (cfg : Cfg) (t : Tag) (c : Command) (s : State) :
    (∃ code, runCommand cfg t c s = s.pushResult t (.err code)) ∨
    (∃ m bytes, checkInputs cfg (c.row cfg) = .ok m ∧ s.conn = .opened ∧ (c.row cfg).encoded cfg = .ok bytes ∧
      (c.row cfg).requestKey m = none ∧ runCommand cfg t c s = doFire t c m bytes s) ∨
    (∃ m bytes key, checkInputs cfg (c.row cfg) = .ok m ∧ s.conn = .opened ∧ (c.row cfg).encoded cfg = .ok bytes ∧
      (c.row cfg).requestKey m = some key ∧ runCommand cfg t c s = doRequest cfg key t c bytes s) := by
  cases hi : checkInputs cfg (c.row cfg) with
  | error e => exact .inl ⟨_, runCommand_of_input_error t hi⟩
  | ok m =>
    cases hc : s.conn with
    | closed => exact .inl ⟨_, runCommand_of_closed t hi hc⟩
    | opened =>
      cases he : (c.row cfg).encoded cfg with
      | error e => exact .inl ⟨_, runCommand_of_encode_error t hi hc he⟩
      | ok bytes =>
        cases hk : (c.row cfg).requestKey m with
        | none => exact .inr (.inl ⟨m, bytes, rfl, rfl, rfl, hk, runCommand_fire t hi hc he hk⟩)
        | some key => exact .inr (.inr ⟨m, bytes, key, rfl, rfl, rfl, hk, runCommand_request t hi hc he hk⟩)

theorem process_cases (cfg : Cfg) (s : State) :
    (s.cmdq = [] ∧ process cfg s = s) ∨
    (∃ t target rest, s.cmdq = (t, .cancel target) :: rest ∧
      process cfg s = doCancel cfg t target (s.setCmdq rest)) ∨
    (∃ t c rest, s.cmdq = (t, .command c) :: rest ∧ process cfg s = runCommand cfg t c (s.setCmdq rest)) := by
  match h : s.cmdq with
  | [] => exact .inl ⟨rfl, by unfold process; rw [h]⟩
  | (t, .cancel target) :: rest => exact .inr (.inl ⟨t, target, rest, rfl, process_cancel h⟩)
  | (t, .command c) :: rest => exact .inr (.inr ⟨t, c, rest, rfl, process_command h⟩)

/-! ### Receiving a frame -/

@[simp] theorem updateChannel_pending (k : Kind) (eff : Effect) (f : Frame) (p : Option Pending) :
    (updateChannel cfg k eff f p s).pending = s.pending := by
  rw [updateChannel_eq_setChan]; rfl

theorem dispatch_cases (cfg : Cfg) (k : Kind) (eff : Effect) (f : Frame) (s : State) :
    (∃ t p, s.matching f = some (t, p) ∧
      dispatch cfg k eff f s = complete cfg t (.reply f) (updateChannel cfg k eff f (some p) s)) ∨
    (s.matching f = none ∧ dispatch cfg k eff f s = (updateChannel cfg k eff f none s).pushNotify f) := by
  unfold dispatch
  cases h : s.matching f with
  | some e => exact .inl ⟨e.1, e.2, rfl, rfl⟩
  | none => simp

theorem exec_cases (i : Instr) (s : State) :
    (∃ e, checkRaw i.kind i.raw = .error e ∧ exec i s = .next (s.pushEvent (.decodeError e i.raw.length))) ∨
    (∃ f, checkRaw i.kind i.raw = .ok f ∧
      exec i s = .next (dispatch Config.cfg i.kind (Instr.effect i) f s)) := by
  rw [exec_eq_receiveFrame]
  cases h : checkRaw i.kind i.raw with
  | error e => exact .inl ⟨e, rfl, receiveFrame_of_error h⟩
  | ok f => exact .inr ⟨f, rfl, receiveFrame_of_ok h⟩

/-! ### The events that need their guard -/

@[simp] theorem doClose_pending (r : CloseReason) (s : State) : (doClose r s).pending = [] := by rw [doClose_eq]

theorem reconnect_cases (s : State) :
    (s.conn = .closed ∧ s.cmdq = [] ∧ reconnect s = State.reset.setEnv s.env) ∨
    (¬(s.conn = .closed ∧ s.cmdq = []) ∧ reconnect s = s) := by
  unfold reconnect
  by_cases h : s.conn = .closed ∧ s.cmdq = []
  · exact .inl ⟨h.1, h.2, if_pos h⟩
  · exact .inr ⟨h, if_neg h⟩

theorem close_cases (s : State) :
    (s.conn = .opened ∧ close s = doClose .streamClosed s) ∨ (s.conn = .closed ∧ close s = s) := by
  cases h : s.conn with
  | opened => exact .inl ⟨rfl, close_of_opened h⟩
  | closed => exact .inr ⟨rfl, close_of_closed h⟩

/-! ### Runs -/

/-- What holds at reset under every environment and is kept by every step holds in every reachable state. -/
theorem Reachable.of_invariant {P : State → Prop} (hreset : ∀ env, P (State.reset.setEnv env))
    (hstep : ∀ s t, P s → Machine.step s = .next t → P t) (h : Reachable s) : P s := by
  induction h with
  | reset env => exact hreset env
  | step _ hs ih => exact hstep _ _ ih hs

end Sys2Proof.Machine
end

section
/-! PROOFS. At most one pending entry per key (R41): every operation keeps the invariant `State.OnePending`, because a
request is issued on a key that is free, either checked so (R207) or freed by the entry that has just ended (R212). And
what `Receive` does (R36). -/

namespace Sys2Proof.Machine

variable {cfg : Cfg} {s : State}

/-- A relation between the entries of a map still holds after a write whose entry is related to all of them. -/
theorem FMap.pairwise_put {κ α : Type} [DecidableEq κ] {rank : κ → Nat} {R : κ × α → κ × α → Prop} {m : List (κ × α)}
    {k : κ} {v : α} (hm : m.Pairwise R) (hr : ∀ e ∈ m, R e (k, v) ∧ R (k, v) e) :
    (FMap.put rank m k v).Pairwise R := by
  induction m with
  | nil => simp [FMap.put]
  | cons e m ih =>
    obtain ⟨he, hm'⟩ := List.pairwise_cons.1 hm
    have hr' : ∀ e ∈ m, R e (k, v) ∧ R (k, v) e := fun x hx => hr x (List.mem_cons_of_mem _ hx)
    simp only [FMap.put]
    split
    · exact List.pairwise_cons.2 ⟨fun x hx => (hr' x hx).2, hm'⟩
    · split
      · exact List.pairwise_cons.2 ⟨fun x hx => (hr x hx).2, hm⟩
      · refine List.pairwise_cons.2 ⟨fun x hx => ?_, ih hm' hr'⟩
        rcases FMap.mem_put hx with rfl | hx
        · exact (hr e List.mem_cons_self).1
        · exact he x hx

/-! ### The invariant and the pending table -/

theorem State.OnePending.of_pending_eq {t : State} (hs : s.OnePending) (h : t.pending = s.pending := by rfl) :
    t.OnePending := by
  unfold State.OnePending at hs ⊢; rwa [h]

theorem onePending_of_pending_nil (h : s.pending = []) : s.OnePending := by
  unfold State.OnePending; rw [h]; exact .nil

/-- Two entries of one key are the same entry. -/
theorem State.OnePending.eq_of_key_eq (hs : s.OnePending) {e e' : Tag × Pending} (he : e ∈ s.pending)
    (he' : e' ∈ s.pending) (hk : e.2.key = e'.2.key) : e = e' := by
  have hsymm : Std.Symm fun a b : Tag × Pending => a.2.key ≠ b.2.key := ⟨fun _ _ => Ne.symm⟩
  by_contra hne
  exact hs.forall he he' hne hk

theorem State.OnePending.put (hs : s.OnePending) {p : Pending} (hfree : ∀ e ∈ s.pending, e.2.key ≠ p.key) (t : Tag) :
    (s.setPending (FMap.put id s.pending t p)).OnePending :=
  FMap.pairwise_put hs fun e he => ⟨hfree e he, (hfree e he).symm⟩

/-- Ending the entry of a key frees the key. -/
theorem State.OnePending.free_of_del (hs : s.OnePending) {t : Tag} {p : Pending} (hp : (t, p) ∈ s.pending) :
    ∀ e ∈ FMap.del s.pending t, e.2.key ≠ p.key := by
  intro e he hk
  obtain ⟨hmem, hne⟩ := FMap.mem_del.1 he
  exact hne (congrArg Prod.fst (hs.eq_of_key_eq hmem hp hk))

/-! ### Every operation keeps it -/

theorem issue_onePending (hs : s.OnePending) {key : BusyKey} (hfree : ∀ e ∈ s.pending, e.2.key ≠ key) (t : Tag)
    (c : Command) (bytes : List Byte) : (issue cfg key t c bytes s).OnePending := by
  cases h : s.nextAnswer with
  | ok =>
    rw [issue_of_ok key t c bytes h]
    have hs' : (s.answered.pushTx bytes .ok).OnePending := hs.of_pending_eq
    exact hs'.put (p := newPending cfg key c s.now) hfree t
  | error =>
    rw [issue_of_error key t c bytes h]
    exact onePending_of_pending_nil (by simp)

theorem issueNext_onePending (hs : s.OnePending) {key : BusyKey} (hfree : ∀ e ∈ s.pending, e.2.key ≠ key) :
    (issueNext cfg key s).OnePending := by
  obtain ⟨d, rest, -, -, h⟩ | ⟨-, h⟩ := issueNext_cases cfg key s
  · rw [h]
    have hs' : (s.setWaitq (waitSet s.waitq key rest)).OnePending := hs.of_pending_eq
    exact issue_onePending hs' hfree d.tag d.op d.bytes
  · rwa [h]

theorem finish_onePending (hs : s.OnePending) {t : Tag} {p : Pending} (hp : (t, p) ∈ s.pending) (o : OpOutcome) :
    (finish cfg t p o s).OnePending :=
  issueNext_onePending (hs.sublist List.filter_sublist) (hs.free_of_del hp)

theorem complete_onePending (hs : s.OnePending) (t : Tag) (o : OpOutcome) : (complete cfg t o s).OnePending := by
  obtain ⟨p, hp, h⟩ | ⟨-, h⟩ := complete_cases cfg t o s
  · rw [h]; exact finish_onePending hs (FMap.mem_of_get?_eq_some hp) o
  · rwa [h]

theorem expire_onePending (hs : s.OnePending) (t : Tag) : (expire cfg t s).OnePending := by
  obtain ⟨p, hp, -, h⟩ | ⟨-, h⟩ := expire_cases cfg t s
  · rw [h]; exact finish_onePending hs (FMap.mem_of_get?_eq_some hp) _
  · rwa [h]

theorem doCancel_onePending (hs : s.OnePending) (t target : Tag) : (doCancel cfg t target s).OnePending := by
  obtain ⟨p, hp, h⟩ | ⟨-, -, h⟩ | ⟨-, -, h⟩ := doCancel_cases cfg t target s <;> rw [h]
  · exact (finish_onePending hs (FMap.mem_of_get?_eq_some hp) _).of_pending_eq
  · exact hs.of_pending_eq
  · exact hs.of_pending_eq

theorem doFire_onePending (hs : s.OnePending) (t : Tag) (c : Command) (m : ModuleAddress) (bytes : List Byte) :
    (doFire t c m bytes s).OnePending := by
  obtain ⟨-, h⟩ | ⟨-, h⟩ := doFire_cases t c m bytes s <;> rw [h]
  · exact hs.of_pending_eq (by rw [applyOutbound_eq]; rfl)
  · exact onePending_of_pending_nil (by simp)

theorem doRequest_onePending (hs : s.OnePending) (key : BusyKey) (t : Tag) (c : Command) (bytes : List Byte) :
    (doRequest cfg key t c bytes s).OnePending := by
  obtain ⟨-, -, h⟩ | ⟨-, -, h⟩ | ⟨hfree, h⟩ := doRequest_cases cfg key t c bytes s <;> rw [h]
  · exact hs.of_pending_eq
  · exact hs.of_pending_eq
  · exact issue_onePending hs hfree t c bytes

theorem runCommand_onePending (hs : s.OnePending) (t : Tag) (c : Command) : (runCommand cfg t c s).OnePending := by
  obtain ⟨code, h⟩ | ⟨m, bytes, -, -, -, -, h⟩ | ⟨m, bytes, key, -, -, -, -, h⟩ := runCommand_cases cfg t c s <;> rw [h]
  · exact hs.of_pending_eq
  · exact doFire_onePending hs t c m bytes
  · exact doRequest_onePending hs key t c bytes

theorem process_onePending (hs : s.OnePending) : (process cfg s).OnePending := by
  obtain ⟨-, h⟩ | ⟨t, target, rest, -, h⟩ | ⟨t, c, rest, -, h⟩ := process_cases cfg s <;> rw [h]
  · exact hs
  · exact doCancel_onePending hs.of_pending_eq t target
  · exact runCommand_onePending hs.of_pending_eq t c

theorem dispatch_onePending (hs : s.OnePending) (k : Kind) (eff : Effect) (f : Frame) :
    (dispatch cfg k eff f s).OnePending := by
  obtain ⟨t, p, -, h⟩ | ⟨-, h⟩ := dispatch_cases cfg k eff f s <;> rw [h]
  · exact complete_onePending (hs.of_pending_eq (updateChannel_pending k eff f _)) t _
  · exact hs.of_pending_eq (updateChannel_pending k eff f _)

theorem exec_keeps_onePending {i : Instr} {t : State} (hs : s.OnePending) (h : exec i s = .next t) :
    t.OnePending := by
  obtain ⟨e, -, he⟩ | ⟨f, -, he⟩ := exec_cases i s <;> cases he.symm.trans h
  · exact hs.of_pending_eq
  · exact dispatch_onePending hs _ _ f

theorem deframe_keeps_onePending {t : State} (hs : s.OnePending) (h : deframe exec s = .next t) : t.OnePending := by
  obtain ⟨id, -, -, hd⟩ | ⟨i, rest, -, -, hd⟩ | ⟨-, hd⟩ := deframe_cases exec s <;> rw [hd] at h
  · cases h; exact hs.of_pending_eq
  · exact exec_keeps_onePending hs.of_pending_eq h
  · cases h; exact hs

/-! ### Every event, every step, every run -/

theorem reset_onePending (env : Env) : (State.reset.setEnv env).OnePending := onePending_of_pending_nil rfl

theorem close_onePending (hs : s.OnePending) : (close s).OnePending := by
  obtain ⟨-, h⟩ | ⟨-, h⟩ := close_cases s <;> rw [h]
  · exact onePending_of_pending_nil (by simp)
  · exact hs

theorem reconnect_onePending (hs : s.OnePending) : (reconnect s).OnePending := by
  obtain ⟨-, -, h⟩ | ⟨-, h⟩ := reconnect_cases s <;> rw [h]
  · exact reset_onePending s.env
  · exact hs

@[simp] theorem receiveBytes_pending (bs : List Byte) (s : State) : (receiveBytes bs s).pending = s.pending := by
  unfold receiveBytes; split <;> rfl

@[simp] theorem tick_pending (t : Ticks) (s : State) : (tick t s).pending = s.pending := by
  unfold tick; split <;> rfl

theorem perform_keeps_onePending {e : Event} {t : State} (hs : s.OnePending)
    (h : perform cfg (deframe exec) e s = .next t) : t.OnePending := by
  cases e with
  | deframe => exact deframe_keeps_onePending hs h
  | accept op => cases h; exact hs.of_pending_eq
  | process => cases h; exact process_onePending hs
  | receive bs => cases h; exact hs.of_pending_eq (receiveBytes_pending bs s)
  | tick n => cases h; exact hs.of_pending_eq (tick_pending n s)
  | expire tag => cases h; exact expire_onePending hs tag
  | close => cases h; exact close_onePending hs
  | reconnect => cases h; exact reconnect_onePending hs

theorem step_keeps_onePending {t : State} (hs : s.OnePending) (h : step s = .next t) : t.OnePending :=
  perform_keeps_onePending hs.of_pending_eq h

theorem Reachable.onePending (h : Reachable s) : s.OnePending :=
  h.of_invariant reset_onePending fun _ _ => step_keeps_onePending

/-- Settles O53, by the invariant `State.OnePending` over runs. -/
theorem reachableStatesHaveOnePendingPerKey : Obligations.ReachableStatesHaveOnePendingPerKey := by
  intro s h e he e' he' hdest hfamily
  have hk : e.2.key = e'.2.key := by simp only [Pending.key, hdest, hfamily]
  exact h.onePending.eq_of_key_eq he he' hk

/-- Settles O18, by the two cases of the connection. -/
theorem receiveAppends : Obligations.ReceiveAppends := by
  refine ⟨fun s bs hc => ?_, fun s bs hc => ?_, rfl⟩
  · rw [step_offer, perform_receive, receiveBytes_of_opened bs hc]; rfl
  · rw [step_offer, perform_receive, receiveBytes_of_closed bs hc]

end Sys2Proof.Machine
end

section
/-! PROOFS. The round trip of `encode` and `decode` under any well-formed catalogue (R109): what `encode` answers and
what `decode` checks, each said once per frame shape over the frame's operand bytes, and the payload of a variable kind
read back from its bytes. -/

namespace Sys2Proof

variable {cat : List Kind} {id : MsgId} {k : Kind}

/-! ### What `encode` answers (R121 to R123) -/

theorem encodeCheck_eq_ok {d m : ModuleAddress} {fields : FrameFields} (hl : lookup cat id = some k) (hne : d ≠ m)
    (hf : fieldsError k.schema fields = none) : encodeCheck cat id d.code m.code fields = .ok (k, d) := by
  simp only [encodeCheck, hl, validate_code, if_neg hne, hf]

theorem encodeFrame_eq_bytes_fixed {d m : ModuleAddress} {p1 p2 : Byte} (hl : lookup cat id = some k) (hne : d ≠ m)
    (hs : k.shape = .fixed) (hk : k.schema = .fixed2)
    (hf : fieldsError k.schema (.params [p1.toNat, p2.toNat]) = none) :
    encodeFrame cat id d.code m.code (.params [p1.toNat, p2.toNat]) =
      .ok ((RawFrame.fixed p1 p2 d.code m.code).bytes id) := by
  simp [encodeFrame, encodeCheck_eq_ok hl hne hf, hs, hk, serialise, formatDest, RawFrame.bytes]

theorem encodeFrame_eq_bytes_variable {d m : ModuleAddress} {fields : FrameFields} (hl : lookup cat id = some k)
    (hne : d ≠ m) (hs : k.shape = .variableLen) (hf : fieldsError k.schema fields = none)
    (hlen : (serialise k.schema fields).length ≤ maxPayload) :
    encodeFrame cat id d.code m.code fields =
      .ok ((RawFrame.variableLen (d.code ||| 0x80) m.code (serialise k.schema fields)).bytes id) := by
  simp only [encodeFrame, encodeCheck_eq_ok hl hne hf, hs, if_neg (Nat.not_lt.2 hlen), formatDest, RawFrame.bytes]

/-! ### What `decode` does with a frame's bytes (R127) -/

theorem decodeFrame_bytes_fixed (hl : lookup cat id = some k) (hs : k.shape = .fixed) (p1 p2 dest source : Byte) :
    decodeFrame cat ((RawFrame.fixed p1 p2 dest source).bytes id) = checkRaw k (.fixed p1 p2 dest source) := by
  simp [-BitVec.ofNat_toNat, RawFrame.bytes, bytesLe_two, decodeFrame, hl, hs]

theorem decodeFrame_bytes_variable (hl : lookup cat id = some k) (hs : k.shape = .variableLen) (dest source : Byte)
    {payload : List Byte} (hlen : payload.length ≤ maxPayload) :
    decodeFrame cat ((RawFrame.variableLen dest source payload).bytes id) =
      checkRaw k (.variableLen dest source payload) := by
  have hlt : payload.length < 65536 := Nat.lt_succ_of_le hlen
  simp [-BitVec.ofNat_toNat, RawFrame.bytes, bytesLe_two, decodeFrame, hl, hs, le16_ofNat hlt, Nat.mod_eq_of_lt hlt]

/-! ### The payload of a variable kind (R98, R101, R124, R129) -/

/-- The operands that pass the schema checks of an opaque kind. -/
theorem fieldsError_opaque {fields : FrameFields} (h : fieldsError .opaqueBytes fields = none) :
    ∃ bs : List Byte, fields = .values (.raw bs) ∧ bs.length ≤ maxPayload := by
  match fields, h with
  | .values (.raw bs), h => exact ⟨bs, rfl, by simpa [fieldsError] using h⟩
  | .values (.record _), h => simp [fieldsError] at h
  | .params _, h => simp [fieldsError] at h

/-- Values that pass the schema checks of a variable kind: their payload has a length that `decode` accepts, it fits the
length field, and it reads back as the values. -/
theorem serialise_of_fieldsError {fields : FrameFields} (hk : k.schema ≠ .fixed2) (hw : k.schema.width ≤ maxPayload)
    (hf : fieldsError k.schema fields = none) :
    (serialise k.schema fields).length ≤ maxPayload ∧
      widthError k (serialise k.schema fields).length = none ∧
      fields = .values (readPayload k.schema (serialise k.schema fields)) := by
  cases hs : k.schema with
  | fixed2 => exact absurd hs hk
  | fields fs =>
    rw [hs] at hf hw
    obtain ⟨vs, rfl, hn, hm⟩ := fieldsError_fields hf
    have hlen : (serFields fs vs).length = schemaWidth fs := length_serFields fs vs hn hm
    refine ⟨hlen.trans_le hw, widthError_eq_none hs hlen, ?_⟩
    simp only [serialise, readPayload, readFields_serFields fs vs hn hm]
  | opaqueBytes =>
    rw [hs] at hf
    obtain ⟨bs, rfl, hlen⟩ := fieldsError_opaque hf
    exact ⟨hlen, by simp only [widthError, hs], rfl⟩

/-! ### The round trip (R109) -/

/-- A fixed kind: its two parameters come back. -/
theorem decode_encode_fixed {d m : ModuleAddress} {fields : FrameFields} (hl : lookup cat id = some k) (hne : d ≠ m)
    (hs : k.shape = .fixed) (hk : k.schema = .fixed2) (hf : fieldsError k.schema fields = none) :
    ∃ (bs : List Byte) (p1 p2 : Byte), fields = .params [p1.toNat, p2.toNat] ∧
      encodeFrame cat id d.code m.code fields = .ok bs ∧
      decodeFrame cat bs = .ok { id := k.id, dest := d, source := m, body := .fixed p1 p2 } := by
  obtain ⟨p1, p2, rfl⟩ := fieldsError_fixed2 (hk ▸ hf)
  refine ⟨_, p1, p2, rfl, encodeFrame_eq_bytes_fixed hl hne hs hk hf, ?_⟩
  rw [decodeFrame_bytes_fixed hl hs, checkRaw_fixed hs (validate_code d) (validate_code m)]

/-- A variable kind, with a field schema or opaque: its values come back. -/
theorem decode_encode_variable {d m : ModuleAddress} {fields : FrameFields} (hl : lookup cat id = some k)
    (hne : d ≠ m) (hs : k.shape = .variableLen) (hk : k.schema ≠ .fixed2) (hw : k.schema.width ≤ maxPayload)
    (hf : fieldsError k.schema fields = none) :
    ∃ bs v, fields = .values v ∧ encodeFrame cat id d.code m.code fields = .ok bs ∧
      decodeFrame cat bs =
        .ok { id := k.id, dest := d, source := m,
              body := .variableLen (BitVec.ofNat 16 (serialise k.schema fields).length) v } := by
  obtain ⟨hlen, hwidth, hread⟩ := serialise_of_fieldsError hk hw hf
  refine ⟨_, _, hread, encodeFrame_eq_bytes_variable hl hne hs hf hlen, ?_⟩
  rw [decodeFrame_bytes_variable hl hs _ _ hlen, checkRaw_variable hs hwidth (validate_code d) (validate_code m)]

/-- Settles O4, by the round trip of each shape: a well-formed kind is fixed exactly when its schema is `Fixed2`. -/
theorem frameRoundTrip : Obligations.FrameRoundTrip := by
  intro cat hcat k hmem d m fields hne hf
  obtain ⟨hnodup, hkinds, -⟩ := catalogueWf_iff.1 hcat
  obtain ⟨hshape, hw, -⟩ := wf_spec (hkinds k hmem).1
  have hl : lookup cat k.id = some k := lookup_of_mem hnodup hmem
  cases hs : k.shape with
  | fixed =>
    obtain ⟨bs, p1, p2, rfl, he, hd⟩ := decode_encode_fixed hl hne hs (hshape.1 hs) hf
    refine ⟨bs, _, he, hd, rfl, rfl, rfl, rfl, ?_, ?_⟩
    · rintro q1 q2 ⟨⟩; rfl
    · rintro len v ⟨⟩
  | variableLen =>
    have hk : k.schema ≠ .fixed2 := fun h => by simp [hshape.2 h] at hs
    obtain ⟨bs, v, rfl, he, hd⟩ := decode_encode_variable hl hne hs hk hw hf
    refine ⟨bs, _, he, hd, rfl, rfl, rfl, rfl, ?_, ?_⟩
    · rintro q1 q2 ⟨⟩
    · rintro len v' ⟨⟩; rfl

end Sys2Proof
end

section
/-! PROOFS. What `decode` answers, said once per check of R127 in the order of the checks: the header, the payload against
the announced length, that length against the schema's width, and the marker bit and the two addresses of a frame whose
extent is right. And the byte that the deframer drops on an unknown identifier (R135). -/

namespace Sys2Proof

variable {cat : List Kind} {k : Kind} {b0 b1 b2 b3 b4 b5 dest source : Byte} {payload : List Byte}

/-! ### The marker bit and the addresses -/

theorem readAddresses_of_marker_ne (source : Byte) (h : dest.msb ≠ (k.shape == .variableLen)) :
    readAddresses k dest source = .error (.malformedAddressBit k.id dest) := if_pos h

theorem readAddresses_of_dest_invalid (source : Byte) (h : dest.msb = (k.shape == .variableLen))
    (hd : validate (dest &&& 0x7F) = none) : readAddresses k dest source = .error (.invalidAddress dest) := by
  simp only [readAddresses, if_neg (not_not_intro h), stripDest, hd, Option.map_none]

theorem readAddresses_of_source_invalid {d : ModuleAddress} (h : dest.msb = (k.shape == .variableLen))
    (hd : validate (dest &&& 0x7F) = some d) (hm : validate source = none) :
    readAddresses k dest source = .error (.invalidAddress source) := by
  simp only [readAddresses, if_neg (not_not_intro h), stripDest, hd, Option.map_some, hm]

theorem readAddresses_of_valid {d m : ModuleAddress} (h : dest.msb = (k.shape == .variableLen))
    (hd : validate (dest &&& 0x7F) = some d) (hm : validate source = some m) :
    readAddresses k dest source = .ok (d, m) := by
  simp only [readAddresses, if_neg (not_not_intro h), stripDest, hd, Option.map_some, hm]

/-! ### The announced length against the schema's width -/

theorem widthError_of_lt {fs : List (FieldName × FieldType)} {n : Nat} (hk : k.schema = .fields fs)
    (h : n < schemaWidth fs) : widthError k n = some (.truncatedFrame (some k.id) n (schemaWidth fs)) := by
  simp only [widthError, hk, if_pos h]

theorem widthError_of_gt {fs : List (FieldName × FieldType)} {n : Nat} (hk : k.schema = .fields fs)
    (h : schemaWidth fs < n) : widthError k n = some (.trailingBytes k.id (n - schemaWidth fs)) := by
  simp only [widthError, hk, if_neg h.not_gt, if_pos h]

theorem widthError_eq_none_of_width {n : Nat} (h : ∀ fs, k.schema = .fields fs → n = schemaWidth fs) :
    widthError k n = none := by
  cases hk : k.schema with
  | fields fs => exact widthError_eq_none hk (h fs hk)
  | fixed2 | opaqueBytes => simp only [widthError, hk]

/-! ### A frame whose extent is known: the frame is built from the addresses that were read -/

theorem checkRaw_fixed_eq_map (p1 p2 : Byte) :
    checkRaw k (.fixed p1 p2 dest source) = (readAddresses k dest source).map fun a =>
      { id := k.id, dest := a.1, source := a.2, body := .fixed p1 p2 } := by
  simp only [checkRaw]
  cases readAddresses k dest source <;> rfl

theorem checkRaw_variable_of_widthError {e : DecodeError} (h : widthError k payload.length = some e) :
    checkRaw k (.variableLen dest source payload) = .error e := by
  simp only [checkRaw, h]

theorem checkRaw_variable_eq_map (h : widthError k payload.length = none) :
    checkRaw k (.variableLen dest source payload) = (readAddresses k dest source).map fun a =>
      { id := k.id, dest := a.1, source := a.2,
        body := .variableLen (BitVec.ofNat 16 payload.length) (readPayload k.schema payload) } := by
  simp only [checkRaw, h]
  cases readAddresses k dest source <;> rfl

/-! ### The header -/

theorem decodeFrame_of_length_lt_two {bs : List Byte} (h : bs.length < 2) :
    decodeFrame cat bs = .error (.truncatedFrame none bs.length 2) := by
  match bs, h with
  | [], _ | [_], _ => rfl
  | _ :: _ :: _, h => simp at h

theorem decodeFrame_of_unregistered (tail : List Byte) (hl : lookup cat (le16 b0 b1) = none) :
    decodeFrame cat (b0 :: b1 :: tail) = .error (.unknownMessageId (le16 b0 b1)) := by
  simp only [decodeFrame, hl]

theorem decodeFrame_of_short_header {tail : List Byte} (hl : lookup cat (le16 b0 b1) = some k)
    (h : tail.length < 4) :
    decodeFrame cat (b0 :: b1 :: tail) = .error (.truncatedFrame (some (le16 b0 b1)) (tail.length + 2) 6) := by
  rw [← (lookup_spec hl).2]
  match tail, h with
  | [], _ | [_], _ | [_, _], _ | [_, _, _], _ => simp only [decodeFrame, hl]; rfl
  | _ :: _ :: _ :: _ :: _, h => simp at h; omega

/-! ### The payload against the announced length -/

theorem decodeFrame_fixed (hl : lookup cat (le16 b0 b1) = some k) (hs : k.shape = .fixed) :
    decodeFrame cat [b0, b1, b2, b3, b4, b5] = checkRaw k (.fixed b2 b3 b4 b5) := by
  simp only [decodeFrame, hl, hs, List.length_nil, if_pos]

theorem decodeFrame_fixed_of_trailing (hl : lookup cat (le16 b0 b1) = some k) (hs : k.shape = .fixed)
    (h : payload ≠ []) : decodeFrame cat (b0 :: b1 :: b2 :: b3 :: b4 :: b5 :: payload) =
      .error (.trailingBytes (le16 b0 b1) payload.length) := by
  simp only [decodeFrame, hl, hs, if_neg (mt List.length_eq_zero_iff.1 h), (lookup_spec hl).2]

theorem decodeFrame_variable (hl : lookup cat (le16 b0 b1) = some k) (hs : k.shape = .variableLen)
    (h : payload.length = (le16 b2 b3).toNat) :
    decodeFrame cat (b0 :: b1 :: b2 :: b3 :: b4 :: b5 :: payload) = checkRaw k (.variableLen b4 b5 payload) := by
  simp only [decodeFrame, hl, hs, h, lt_irrefl, if_false]

theorem decodeFrame_variable_of_truncated (hl : lookup cat (le16 b0 b1) = some k) (hs : k.shape = .variableLen)
    (h : payload.length < (le16 b2 b3).toNat) :
    decodeFrame cat (b0 :: b1 :: b2 :: b3 :: b4 :: b5 :: payload) =
      .error (.truncatedFrame (some (le16 b0 b1)) payload.length (le16 b2 b3).toNat) := by
  simp only [decodeFrame, hl, hs, if_pos h, (lookup_spec hl).2]

theorem decodeFrame_variable_of_trailing (hl : lookup cat (le16 b0 b1) = some k) (hs : k.shape = .variableLen)
    (h : (le16 b2 b3).toNat < payload.length) :
    decodeFrame cat (b0 :: b1 :: b2 :: b3 :: b4 :: b5 :: payload) =
      .error (.trailingBytes (le16 b0 b1) (payload.length - (le16 b2 b3).toNat)) := by
  simp only [decodeFrame, hl, hs, if_neg h.not_gt, if_pos h, (lookup_spec hl).2]

/-- A frame of the announced length whose schema has another width. -/
theorem decodeFrame_variable_of_widthError {e : DecodeError} (hl : lookup cat (le16 b0 b1) = some k)
    (hs : k.shape = .variableLen) (hlen : payload.length = (le16 b2 b3).toNat)
    (h : widthError k (le16 b2 b3).toNat = some e) :
    decodeFrame cat (b0 :: b1 :: b2 :: b3 :: b4 :: b5 :: payload) = .error e := by
  rw [decodeFrame_variable hl hs hlen, checkRaw_variable_of_widthError (hlen ▸ h)]

/-- A frame of the right extent, of either shape: what is left of `decode` is the marker bit and the addresses. -/
theorem decodeFrame_eq_map (hl : lookup cat (le16 b0 b1) = some k)
    (hext : (k.shape = .fixed ∧ payload = []) ∨ (k.shape = .variableLen ∧ payload.length = (le16 b2 b3).toNat ∧
      ∀ fs, k.schema = .fields fs → (le16 b2 b3).toNat = schemaWidth fs)) :
    decodeFrame cat (b0 :: b1 :: b2 :: b3 :: b4 :: b5 :: payload) = (readAddresses k b4 b5).map fun a =>
      { id := le16 b0 b1, dest := a.1, source := a.2, body :=
          if k.shape = .fixed then .fixed b2 b3 else .variableLen (le16 b2 b3) (readPayload k.schema payload) } := by
  obtain ⟨hs, rfl⟩ | ⟨hs, hlen, hw⟩ := hext
  · rw [decodeFrame_fixed hl hs, checkRaw_fixed_eq_map, (lookup_spec hl).2]
    simp only [hs, if_true]
  · have hwidth : widthError k payload.length = none := widthError_eq_none_of_width (hlen ▸ hw)
    rw [decodeFrame_variable hl hs hlen, checkRaw_variable_eq_map hwidth, (lookup_spec hl).2, hlen,
      BitVec.ofNat_toNat, BitVec.setWidth_eq]
    simp only [hs, reduceCtorEq, if_false]

/-- Settles O8, by the equations of `decodeFrame`, one per check. -/
theorem decodeChecksInOrder : Obligations.DecodeChecksInOrder := by
  refine ⟨fun _ _ => decodeFrame_of_length_lt_two, fun _ _ _ => decodeFrame_of_unregistered,
    fun _ _ _ _ _ => decodeFrame_of_short_header, ?_⟩
  intro cat b0 b1 b2 b3 b4 b5 payload k hl bs len
  have hid : k.id = le16 b0 b1 := (lookup_spec hl).2
  refine ⟨decodeFrame_fixed_of_trailing hl, decodeFrame_variable_of_truncated hl, decodeFrame_variable_of_trailing hl,
    fun fs hs hlen hk h => ?_, fun fs hs hlen hk h => ?_, fun hext => ?_⟩
  · rw [decodeFrame_variable_of_widthError hl hs hlen (widthError_of_lt hk h), hid]
  · rw [decodeFrame_variable_of_widthError hl hs hlen (widthError_of_gt hk h), hid]
  · have hmap := decodeFrame_eq_map (b4 := b4) (b5 := b5) hl hext
    refine ⟨fun h => ?_, fun h hd => ?_, fun d h hd hm => ?_, fun d m h hd hm => ?_⟩
    · rw [hmap, readAddresses_of_marker_ne b5 h, hid]; rfl
    · rw [hmap, readAddresses_of_dest_invalid b5 h hd]; rfl
    · rw [hmap, readAddresses_of_source_invalid h hd hm]; rfl
    · rw [hmap, readAddresses_of_valid h hd hm]; rfl

/-! ### An unknown identifier in the stream (R135) -/

/-- The opcode table has a row for exactly the identifiers that the default catalogue registers. -/
theorem lookupRow_eq_none_iff {id : MsgId} : lookupRow id = none ↔ lookup catalogue id = none := by
  rw [lookup_catalogue, Option.map_eq_none_iff]

theorem fetch_of_unregistered (tail : List Byte) (h : lookup catalogue (le16 b0 b1) = none) :
    fetch (b0 :: b1 :: tail) = .unknown (le16 b0 b1) := by
  simp only [fetch, lookupRow_eq_none_iff.2 h]

namespace Machine

/-- Settles O14: `fetch` answers the unknown identifier, and `deframe` drops the first byte and logs it. -/
theorem unknownIdentifierDropsOneByte : Obligations.UnknownIdentifierDropsOneByte := by
  intro s b0 b1 tail hc hrx hl
  have hf : fetch s.rx = .unknown (le16 b0 b1) := hrx ▸ fetch_of_unregistered tail hl
  rw [step_offer, perform_deframe, deframe_of_unknown exec hc hf, hrx]
  rfl

end Machine

end Sys2Proof
end

section
/-! PROOFS. The transaction engine: the checks before any I/O (R203, R204), a write that fails (R205), the busy key (R207),
`cancel` (R213) and the close of the connection (R217). -/

namespace Sys2Proof

/-! ### The checks before any I/O, in their order (R203) -/

section
variable {cfg : Cfg} {r : CommandRow}

theorem checkInputs_of_invalid (h : validate r.dest = none) : checkInputs cfg r = .error (.invalidAddress r.dest) := by
  unfold checkInputs; rw [h]

theorem checkInputs_of_host (h : validate r.dest = some .host) : checkInputs cfg r = .error (.selfAddressed r.dest) := by
  unfold checkInputs; rw [h]; rfl

/-- For a module other than the Host, the first error among the channel's, the bay's and the timeout's wins. -/
theorem checkInputs_of_module {m : ModuleAddress} (h : validate r.dest = some m) (hm : m ≠ .host) :
    checkInputs cfg r =
      ((channelError cfg r.ch).or ((bayError r.args).or (timeoutError cfg r))).elim (.ok m) .error := by
  have hcode : m.code ≠ hostAddr := fun hc => hm ((code_ne_host m).1 hc)
  simp only [checkInputs, h, if_neg hcode]
  cases channelError cfg r.ch <;> cases bayError r.args <;> cases timeoutError cfg r <;> rfl

theorem channelError_of_bad {ch : Channel} (h : ch < 1 ∨ cfg.numChannels < ch ∨ cfg.chanIdent ch = none) :
    channelError cfg (some ch) = some (.schemaViolation (.channel ch)) := by
  by_cases hr : channelInRange cfg ch = true
  · have hrange : 1 ≤ ch ∧ ch ≤ cfg.numChannels := by simpa [channelInRange] using hr
    have hnone : cfg.chanIdent ch = none := by
      rcases h with h | h | h
      · exact absurd hrange.1 (Nat.not_le_of_lt h)
      · exact absurd hrange.2 (Nat.not_le_of_lt h)
      · exact h
    simp [channelError, hr, hnone]
  · simp [channelError, hr]

theorem bayError_of_ge {b : Byte} (h : 10 ≤ b.toNat) : bayError (.bay b) = some (.schemaViolation (.bay b)) := if_pos h

theorem timeout_of_request {limit : Option Ticks} (h : r.cls = .request limit) :
    r.timeout cfg = limit.getD cfg.defaultTimeout := by
  unfold CommandRow.timeout; rw [h]; cases limit <;> rfl

theorem timeoutError_of_lt {limit : Option Ticks} (h : r.cls = .request limit) (hlt : limit.getD cfg.defaultTimeout < 1) :
    timeoutError cfg r = some (.schemaViolation .timeout) := by
  simp only [timeoutError, h, timeout_of_request h, if_pos hlt]

end

namespace Machine

variable {cfg : Cfg} {s : State}

/-- Settles O36: `checkInputs` answers the first error in order, and `process` delivers it and does nothing else. -/
theorem inputErrorsBeforeAnyIO : Obligations.InputErrorsBeforeAnyIO := by
  refine ⟨fun cfg s tag c rest e hq he => ?_, fun cfg r => checkInputs_of_invalid, fun cfg r => checkInputs_of_host,
    fun cfg r m hd hm => ?_, fun b => ⟨rfl, rfl⟩, fun r => rfl⟩
  · rw [process_command hq, runCommand_of_input_error tag he]; rfl
  · rw [checkInputs_of_module hd hm]
    refine ⟨fun ch hch hbad => ?_, fun hch => ?_⟩
    · rw [hch, channelError_of_bad hbad]; rfl
    rw [channelError_eq_none hch]
    refine ⟨fun b hb hge => ?_, fun hb => ?_⟩
    · rw [hb, bayError_of_ge hge]; rfl
    rw [bayError_eq_none hb]
    refine ⟨fun limit hl hlt => ?_, fun ht => ?_⟩
    · rw [timeoutError_of_lt hl hlt]; rfl
    · rw [timeoutError_eq_none ht]; rfl

/-- Settles O37: the closed connection is asked right after the input checks. -/
theorem closedConnectionRefuses : Obligations.ClosedConnectionRefuses := by
  intro cfg s tag c rest m hq hi hc
  have hc' : (s.setCmdq rest).conn = .closed := hc
  rw [process_command hq, runCommand_of_closed tag hi hc']; rfl

/-! ### Closing the connection (R217) -/

theorem mem_inFlight (x : Tag) : x ∈ s.inFlight ↔ x ∈ s.pending.map Prod.fst ∨ x ∈ waitTags s.waitq := by
  rw [State.inFlight, mem_sortTags, List.mem_append]

/-- `doClose` closes the connection in the sense of `State.ClosedTo`. -/
theorem closedTo_doClose (reason : CloseReason) (hwf : ChanFile.wf s.chan) : s.ClosedTo (doClose reason s) reason := by
  rw [doClose_eq]
  constructor
  case rest => rfl
  case subs => intro m; exact Vector.getElem_replicate _
  case chan => intro m ch; exact chanGet_chanMap hwf.1 (fun _ => true) ChannelState.forget_init ⟨m, ch⟩
  case results => exact ⟨s.inFlight, sortTags_rising _, fun x => mem_inFlight x, rfl⟩
  case events => rfl

/-- Settles O44: the `Close` step is `doClose`, which closes as R217 says. -/
theorem closeStep : Obligations.CloseStep := by
  refine ⟨fun s hc hwf => ⟨doClose .streamClosed s, ?_, closedTo_doClose _ hwf⟩,
    fun s reason hwf => closedTo_doClose reason hwf⟩
  rw [step_offer, perform_close, close_of_opened hc]

/-! ### A write answered error (R205) -/

theorem doFire_of_error (t : Tag) (c : Command) (m : ModuleAddress) (bytes : List Byte) (h : s.nextAnswer = .error) :
    doFire t c m bytes s =
      (doClose .writeError (s.answered.pushTx bytes .error)).pushResult t (.err .transportError) := by
  simp only [doFire, send_of_error bytes h]

/-- A command that gets as far as its write, a fire-and-forget one or a request whose key is free, closes the connection
and ends `Err(TransportError)` when the write is answered `error`. -/
theorem runCommand_of_write_error (tag : Tag) {c : Command} {m : ModuleAddress} {bytes : List Byte}
    (hi : checkInputs cfg (c.row cfg) = .ok m) (hc : s.conn = .opened) (he : (c.row cfg).encoded cfg = .ok bytes)
    (hfree : ∀ key, (c.row cfg).requestKey m = some key → ∀ e ∈ s.pending, e.2.key ≠ key) (ha : s.nextAnswer = .error) :
    runCommand cfg tag c s =
      (doClose .writeError (s.answered.pushTx bytes .error)).pushResult tag (.err .transportError) := by
  cases hk : (c.row cfg).requestKey m with
  | none => rw [runCommand_fire tag hi hc he hk, doFire_of_error tag c m bytes ha]
  | some key =>
    rw [runCommand_request tag hi hc he hk, doRequest_of_free tag c bytes (hfree key hk),
      issue_of_error key tag c bytes ha]

/-- Settles O40, by the answer to the write: on `error` the state reached is that of `doClose`. -/
theorem writeErrorCloses : Obligations.WriteErrorCloses := by
  refine ⟨fun s bytes ha => ?_, fun s bytes hwf ha => ⟨_, send_of_error bytes ha, closedTo_doClose _ hwf⟩,
    fun cfg s tag c rest m bytes hwf hq hi hc he hfree ha =>
      ⟨doClose .writeError ((s.setCmdq rest).answered.pushTx bytes .error), closedTo_doClose _ hwf, ?_⟩⟩
  · rw [send_of_ok bytes ha]; rfl
  · have hc' : (s.setCmdq rest).conn = .opened := hc
    have ha' : (s.setCmdq rest).nextAnswer = .error := ha
    rw [process_command hq, runCommand_of_write_error tag hi hc' he hfree ha']; rfl

/-! ### The busy key (R207) -/

theorem doRequest_of_failFast {key : BusyKey} (t : Tag) (c : Command) (bytes : List Byte)
    (hb : ∃ e ∈ s.pending, e.2.key = key) (hp : cfg.busyPolicy = .failFast) :
    doRequest cfg key t c bytes s = s.pushResult t (.err .busy) := by
  simp only [doRequest, (busy_iff s key).2 hb, hp]

theorem doRequest_of_wait {key : BusyKey} (t : Tag) (c : Command) (bytes : List Byte)
    (hb : ∃ e ∈ s.pending, e.2.key = key) (hp : cfg.busyPolicy = .wait) :
    doRequest cfg key t c bytes s = s.setWaitq (waitSet s.waitq key (s.waiting key ++ [⟨t, c, bytes⟩])) := by
  simp only [doRequest, (busy_iff s key).2 hb, hp]

theorem waiting_setWaitq_waitSet (key key' : BusyKey) (l : List Deferred) :
    (s.setWaitq (waitSet s.waitq key l)).waiting key' = if key = key' then l else s.waiting key' :=
  waiting_waitSet s.waitq key key' l

/-- Settles O39, by the three cases of `doRequest`: busy under each policy, and free. -/
theorem busyKeyRule : Obligations.BusyKeyRule := by
  intro cfg s tag c rest key bytes hq hi hc he hk
  have hc' : (s.setCmdq rest).conn = .opened := hc
  rw [process_command hq, runCommand_request tag hi hc' he hk]
  refine ⟨fun hb hp => ?_, fun hb hp => ⟨_, doRequest_of_wait tag c bytes hb hp, rfl, ?_, ?_, ?_⟩,
    fun hfree ha => ?_⟩
  · rw [doRequest_of_failFast (s := s.setCmdq rest) tag c bytes hb hp]; rfl
  · exact fun hr => rising_waitSet hr key _
  · rw [waiting_setWaitq_waitSet, if_pos rfl]; rfl
  · intro key' hne
    rw [waiting_setWaitq_waitSet, if_neg hne.symm]; rfl
  · have ha' : (s.setCmdq rest).nextAnswer = .ok := ha
    rw [doRequest_of_free (s := s.setCmdq rest) tag c bytes hfree, issue_of_ok key tag c bytes ha']
    refine ⟨_, rfl, rfl, ?_, ?_, ?_⟩
    · exact FMap.get?_put_self _ _ _
    · exact fun hr => FMap.rising_put (fun _ _ => id) hr tag _
    · exact fun tag' hne => FMap.get?_put_of_ne hne.symm

/-! ### Cancelling (R213) -/

theorem doCancel_of_pending {target : Tag} {p : Pending} (t : Tag) (h : FMap.get? s.pending target = some p) :
    doCancel cfg t target s = (finish cfg target p (.err .cancelled) s).pushResult t .ok := by
  simp only [doCancel, h]

theorem doCancel_of_deferred {target : Tag} (t : Tag) (h : FMap.get? s.pending target = none)
    (hw : target ∈ waitTags s.waitq) :
    doCancel cfg t target s =
      ((s.setWaitq (waitRemove target s.waitq)).pushResult target (.err .cancelled)).pushResult t .ok := by
  simp only [doCancel, h, if_pos hw]

theorem doCancel_of_other {target : Tag} (t : Tag) (h : FMap.get? s.pending target = none)
    (hw : target ∉ waitTags s.waitq) : doCancel cfg t target s = s.pushResult t .ok := by
  simp only [doCancel, h, if_neg hw]

theorem pushResult_pushResult (t t' : Tag) (o o' : OpOutcome) :
    (s.pushResult t o).pushResult t' o' = { s with results := s.results ++ [(t, o), (t', o')] } := by
  simp [State.pushResult]

/-- Settles O41, by where the target is: pending, deferred, or neither. -/
theorem cancelRule : Obligations.CancelRule := by
  intro cfg s tag target rest hq
  rw [process_cancel hq]
  refine ⟨fun p hp hw => ?_, fun p hp => doCancel_of_pending tag hp,
    fun hp hw hr => ⟨_, doCancel_of_deferred tag hp hw, ?_, ?_, ?_⟩, fun hp hw => ?_⟩
  · have hw' : (s.setCmdq rest).waiting p.key = [] := hw
    rw [doCancel_of_pending (s := s.setCmdq rest) tag hp, finish_of_nothing_waiting target p _ hw', pushResult_pushResult]; rfl
  · rw [pushResult_pushResult]; rfl
  · exact rising_waitRemove hr target
  · exact fun key => waiting_waitRemove hr target key
  · rw [doCancel_of_other (s := s.setCmdq rest) tag hp hw]; rfl

end Machine

end Sys2Proof
end

section
/-! PROOFS. The snapshot read (R261): its answer for each outcome of the two operand checks, in their order. -/

namespace Sys2Proof

variable {cfg : Cfg} {ch : Channel} {m : Byte} {a : ModuleAddress}

theorem channelInRange_iff : channelInRange cfg ch = true ↔ 1 ≤ ch ∧ ch ≤ cfg.numChannels := decide_eq_true_iff

theorem channelInRange_eq_false_iff : channelInRange cfg ch = false ↔ ch < 1 ∨ cfg.numChannels < ch := by
  rw [← Bool.not_eq_true, channelInRange_iff, not_and_or, Nat.not_le, Nat.not_le]

namespace Machine

theorem State.chanOf_reset (a : ModuleAddress) (ch : Channel) : State.reset.chanOf a ch = ChannelState.init := rfl

theorem getSnapshot_of_invalid (s : State) (h : validate m = none) :
    getSnapshot cfg m ch s = .error (.invalidAddress m) := by
  simp only [getSnapshot, h]

theorem getSnapshot_of_outOfRange (s : State) (h : validate m = some a) (hr : channelInRange cfg ch = false) :
    getSnapshot cfg m ch s = .error (.schemaViolation (.channel ch)) := by
  simp [getSnapshot, h, hr]

theorem getSnapshot_of_inRange (s : State) (h : validate m = some a) (hr : channelInRange cfg ch = true) :
    getSnapshot cfg m ch s = .ok (s.chanOf a ch) := by
  simp only [getSnapshot, h, if_pos hr]

/-- Settles O48, by the operand checks in their order: the module byte, then the channel's range. -/
theorem snapshotReads : Obligations.SnapshotReads := by
  intro cfg m ch s
  refine ⟨getSnapshot_of_invalid s, fun a ha hout => ?_, fun a ha h1 h2 => ?_⟩
  · exact getSnapshot_of_outOfRange s ha (channelInRange_eq_false_iff.2 hout)
  · have hr : channelInRange cfg ch = true := channelInRange_iff.2 ⟨h1, h2⟩
    exact ⟨getSnapshot_of_inRange s ha hr, by rw [getSnapshot_of_inRange _ ha hr, State.chanOf_reset]⟩

end Machine

end Sys2Proof
end

section
/-! PROOFS. The framing errors of the stream (R415): a frame that `decode` rejects and an unknown identifier are logged,
and only the received bytes and the log change. -/

namespace Sys2Proof

/-- The encoding of a frame has as many bytes as the deframer cut for it. -/
theorem RawFrame.length_bytes (id : MsgId) (raw : RawFrame) : (raw.bytes id).length = raw.length := by
  cases raw with
  | fixed p1 p2 dest source => simp [RawFrame.bytes, RawFrame.length, hdrBytes]
  | variableLen dest source payload => simp [RawFrame.bytes, RawFrame.length, hdrBytes]; omega

theorem length_encode (i : Instr) : (encode i).length = i.raw.length := RawFrame.length_bytes i.kind.id i.raw

namespace Machine

variable {s : State}

theorem exec_of_check_error {i : Instr} {e : DecodeError} (s : State) (h : i.check = .error e) :
    exec i s = .next (s.pushEvent (.decodeError e (encode i).length)) := by
  rw [exec_eq_receiveFrame, receiveFrame_of_error h, length_encode]

theorem step_deframe_of_frame {i : Instr} {rest : List Byte} (hc : s.conn = .opened) (hf : fetch s.rx = .frame i rest) :
    step (s.offer .deframe) = exec i (s.setRx rest) := by
  rw [step_offer, perform_deframe, deframe_of_frame exec hc hf]

theorem step_deframe_of_unknown {id : MsgId} (hc : s.conn = .opened) (hf : fetch s.rx = .unknown id) :
    step (s.offer .deframe) = .next ((s.setRx s.rx.tail).pushEvent (.decodeError (.unknownMessageId id) 1)) := by
  rw [step_offer, perform_deframe, deframe_of_unknown exec hc hf]

/-- Settles O16: a rejected frame as an instruction, the same frame cut from the stream, and an unknown identifier. -/
theorem framingErrorsOnlyLogged : Obligations.FramingErrorsOnlyLogged := by
  refine ⟨fun i s e h => ?_, fun i s e rest hc hf h => ?_, fun s id hc hf => ?_⟩
  · exact exec_of_check_error s h
  · rw [step_deframe_of_frame hc hf, exec_of_check_error _ h]; rfl
  · rw [step_deframe_of_unknown hc hf, ← List.drop_one]; rfl

end Machine

end Sys2Proof
end

section
/-! PROOFS. The reset state (R450): what its maps answer, and the two ways a block comes to it, construction and
`Reconnect` (R452). -/

namespace Sys2Proof.Machine

theorem State.subOf_reset (m : ModuleAddress) : State.reset.subOf m = .unsubscribed :=
  Vector.getElem_replicate m.index.isLt

theorem construct_of_catalogueWf {cfg : Cfg} (h : catalogueWf cfg.catalogue = true) :
    construct cfg = some ⟨cfg, State.reset⟩ := if_pos h

theorem reconnect_of_enabled {s : State} (hc : s.conn = .closed) (hq : s.cmdq = []) :
    reconnect s = State.reset.setEnv s.env := if_pos ⟨hc, hq⟩

theorem step_reconnect_of_enabled {s : State} (hc : s.conn = .closed) (hq : s.cmdq = []) :
    step (s.offer .reconnect) = .next (State.reset.setEnv s.env) := by
  rw [step_offer, perform_reconnect, reconnect_of_enabled hc hq]

/-- Settles O49: the plain fields of `State.reset` by its definition, the maps by what they answer at every key, and the
two ways to reset by the equations of `construct` and of an enabled `Reconnect` step. -/
theorem resetState : Obligations.ResetState := by
  refine ⟨rfl, rfl, rfl, rfl, rfl, rfl, ?subs, ?chan, rfl, rfl, rfl, rfl, rfl, ?construct, ?reconnect⟩
  case subs => exact State.subOf_reset
  case chan => exact State.chanOf_reset
  case construct => exact fun _ hwf => construct_of_catalogueWf hwf
  case reconnect => exact fun s hc hq => ⟨s.env, step_reconnect_of_enabled hc hq⟩

end Sys2Proof.Machine
end

section
/-! PROOFS. The invariant of the block (`State.Inv`) as it stands in the middle of an operation, where the tags in hand
are nowhere in the state and one key may have deferred requests without a pending entry; each part of an operation keeps
it, and every step gives it back whole. -/

namespace Sys2Proof.Machine

variable {cfg : Cfg} {s t : State} {held : List Tag} {loose : Option BusyKey}

/-! ### The invariant in the middle of an operation -/

/-- The part of `State.Inv` about the pending and the deferred requests. Requests may be deferred on the key `loose`
though no entry of it is pending. -/
structure State.TablesOk (loose : Option BusyKey) (s : State) : Prop where
  pendingRising : FMap.Rising id s.pending
  waitqRising : FMap.Rising BusyKey.rank s.waitq
  waitqFilled : ∀ e ∈ s.waitq, e.2 ≠ []
  onePending : s.OnePending
  deferredBusy : ∀ e ∈ s.waitq, some e.1 ≠ loose → s.busy e.1 = true
  failFast : Config.cfg.busyPolicy = .failFast → s.waitq = []
  pendingAgrees : ∀ e ∈ s.pending, e.2.Agrees
  deferredAgrees : ∀ e ∈ s.waitq, ∀ d ∈ e.2, d.Agrees e.1

/-- The part of `State.Inv` about the channel file. -/
structure State.ChanOk (s : State) : Prop where
  chanForm : ChanFile.wf s.chan
  chanInRange : ∀ e ∈ s.chan, 1 ≤ e.1.ch ∧ e.1.ch ≤ Config.cfg.numChannels

/-- Every tag given so far is in exactly one place, the tags in hand counting as a place. -/
def State.OutcomeOnceWith (held : List Tag) (s : State) : Prop :=
  ∀ x, held.count x + s.tags.count x = if x < s.nextTag then 1 else 0

/-- The invariant with the tags `held` in hand and the key `loose` free though requests may be deferred on it. -/
structure State.InvWith (held : List Tag) (loose : Option BusyKey) (s : State) : Prop where
  tables : s.TablesOk loose
  chanOk : s.ChanOk
  outcomeOnce : s.OutcomeOnceWith held
  closedQuiet : s.ClosedQuiet

theorem inv_iff_invWith : s.Inv ↔ s.InvWith [] none := by
  constructor
  · intro h
    refine ⟨{ h with deferredBusy := fun e he _ => h.deferredBusy e he }, { h with }, fun x => ?_, h.closedQuiet⟩
    simpa using h.outcomeOnce x
  · intro h
    refine { h.tables, h.chanOk, h with
      deferredBusy := fun e he => h.tables.deferredBusy e he (by simp), outcomeOnce := fun x => ?_ }
    simpa using h.outcomeOnce x

theorem count_tags (x : Tag) : s.tags.count x = (s.cmdq.map Prod.fst).count x + (s.pending.map Prod.fst).count x +
    (waitTags s.waitq).count x + (s.results.map Prod.fst).count x := by
  simp only [State.tags, List.count_append]

theorem State.ClosedQuiet.of_opened (h : s.conn = .opened) : s.ClosedQuiet := by
  constructor <;> intro hc <;> rw [h] at hc <;> cases hc

/-- Tags may move between places and hands. -/
theorem State.OutcomeOnceWith.of_count {held' : List Tag} (h : s.OutcomeOnceWith held)
    (hcount : ∀ x, held'.count x + t.tags.count x = held.count x + s.tags.count x)
    (hn : t.nextTag = s.nextTag := by rfl) : t.OutcomeOnceWith held' := fun x => by
  rw [hcount, hn]; exact h x

/-- The fields outside the invariant do not matter to it; the connection may only be found open. -/
theorem State.InvWith.of_same (h : s.InvWith held loose) (hq : t.ClosedQuiet) (hp : t.pending = s.pending := by rfl)
    (hw : t.waitq = s.waitq := by rfl) (hc : t.chan = s.chan := by rfl) (hcmd : t.cmdq = s.cmdq := by rfl)
    (hr : t.results = s.results := by rfl) (hn : t.nextTag = s.nextTag := by rfl) : t.InvWith held loose := by
  obtain ⟨⟨h1, h2, h3, h4, h5, h6, h7, h8⟩, ⟨h9, h10⟩, h11, -⟩ := h
  have hb : ∀ key, t.busy key = s.busy key := fun key => by rw [State.busy, hp, State.busy]
  refine ⟨⟨hp ▸ h1, hw ▸ h2, hw ▸ h3, h4.of_pending_eq hp, ?_, hw ▸ h6, hp ▸ h7, hw ▸ h8⟩,
    ⟨hc ▸ h9, hc ▸ h10⟩, fun x => ?_, hq⟩
  · intro e he hl; rw [hb]; exact h5 e (hw ▸ he) hl
  · have htags : t.tags = s.tags := by simp only [State.tags, hp, hw, hcmd, hr]
    rw [htags, hn]; exact h11 x

/-- With nothing deferred on the loose key, nothing is amiss. -/
theorem State.InvWith.tighten (h : s.InvWith held (some key)) (hw : ∀ e ∈ s.waitq, e.1 ≠ key) :
    s.InvWith held none :=
  { h with tables := { h.tables with
      deferredBusy := fun e he _ => h.tables.deferredBusy e he fun hk => hw e he (Option.some.inj hk) } }

theorem State.InvWith.loosen (h : s.InvWith held none) (key : BusyKey) : s.InvWith held (some key) :=
  { h with tables := { h.tables with deferredBusy := fun e he _ => h.tables.deferredBusy e he (by simp) } }

/-- A tag in hand is in no place of the state. -/
theorem State.InvWith.count_eq_zero {x : Tag} (h : s.InvWith (x :: held) loose) : s.tags.count x = 0 := by
  have hx := h.outcomeOnce x
  rw [List.count_cons_self] at hx
  split at hx <;> omega

/-- A tag in one place of the state is in no other. -/
theorem State.InvWith.count_le_one (h : s.InvWith held loose) (x : Tag) : s.tags.count x ≤ 1 := by
  have hx := h.outcomeOnce x
  split at hx <;> omega

theorem get?_pending_of_count {x : Tag} (h : (s.pending.map Prod.fst).count x = 0) : FMap.get? s.pending x = none :=
  FMap.get?_eq_none_of_forall_ne fun _ he hx => List.count_eq_zero.1 h (hx ▸ List.mem_map_of_mem he)

/-- A pending entry is found on an open connection only. -/
theorem State.ClosedQuiet.opened_of_pending (h : s.ClosedQuiet) {x : Tag} {p : Pending}
    (hp : FMap.get? s.pending x = some p) : s.conn = .opened := by
  cases hc : s.conn with
  | opened => rfl
  | closed => rw [h.pending hc] at hp; cases hp

/-! ### The deferred requests of a key -/

theorem mem_waiting {key : BusyKey} {d : Deferred} (h : d ∈ s.waiting key) :
    ∃ l, (key, l) ∈ s.waitq ∧ d ∈ l := by
  unfold State.waiting at h
  cases hg : FMap.get? s.waitq key with
  | none => simp [hg] at h
  | some l => exact ⟨l, FMap.mem_of_get?_eq_some hg, by simpa [hg] using h⟩

theorem State.TablesOk.ne_of_waiting_nil (h : s.TablesOk loose) {key : BusyKey} (hw : s.waiting key = []) :
    ∀ e ∈ s.waitq, e.1 ≠ key := by
  rintro ⟨k, l⟩ he rfl
  have hl : s.waiting k = l := by rw [State.waiting, FMap.get?_of_mem h.waitqRising he]; rfl
  exact h.waitqFilled _ he (hl.symm.trans hw)

/-- The entries of the deferred requests once one key's list is replaced. -/
theorem mem_waitSet {w : List (BusyKey × List Deferred)} {key : BusyKey} {l : List Deferred}
    {e : BusyKey × List Deferred} (h : e ∈ waitSet w key l) : (e = (key, l) ∧ l ≠ []) ∨ e ∈ w := by
  unfold waitSet at h
  split at h
  · exact .inr (FMap.mem_del.1 h).1
  · rename_i hl
    exact (FMap.mem_put h).imp_left fun he => ⟨he, hl⟩

/-- What `waitRemove` leaves is a non-empty part of what was there. -/
theorem mem_waitRemove {w : List (BusyKey × List Deferred)} {x : Tag} {e : BusyKey × List Deferred}
    (h : e ∈ waitRemove x w) : e.2 ≠ [] ∧ ∃ l, (e.1, l) ∈ w ∧ ∀ d ∈ e.2, d ∈ l := by
  obtain ⟨⟨k, l⟩, hmem, he⟩ := List.mem_filterMap.1 h
  dsimp only at he
  split at he
  · cases he
  · rename_i hne
    cases he
    exact ⟨hne, l, hmem, fun d hd => (List.mem_filter.1 hd).1⟩

theorem State.ChanOk.chanMap (h : s.ChanOk) (sel : ChanKey → Bool) (g : ChannelState → ChannelState) :
    (s.setChan (chanMap sel g s.chan)).ChanOk := by
  refine ⟨ChanFile.wf_chanMap h.chanForm sel g, fun e he => ?_⟩
  obtain ⟨c, hc, -, -⟩ := mem_chanMap he
  exact h.chanInRange (e.1, c) hc

/-! ### Every part of an operation keeps it -/

theorem State.InvWith.pushResult {x : Tag} (h : s.InvWith (x :: held) loose) (o : OpOutcome) :
    (s.pushResult x o).InvWith held loose := by
  refine ⟨{ h.tables with }, { h.chanOk with }, h.outcomeOnce.of_count fun y => ?_, { h.closedQuiet with }⟩
  simp only [count_tags, State.pushResult_cmdq, State.pushResult_pending, State.pushResult_waitq,
    State.pushResult_results, List.map_append, List.map_cons, List.map_nil, List.count_append, count_tag_cons,
    List.count_nil]
  omega

/-- The operation at the head of the queue is taken in hand. -/
theorem State.InvWith.takeOp {x : Tag} {op : Op} {rest : List (Tag × Op)} (h : s.InvWith held loose)
    (hq : s.cmdq = (x, op) :: rest) : (s.setCmdq rest).InvWith (x :: held) loose := by
  refine ⟨{ h.tables with }, { h.chanOk with }, h.outcomeOnce.of_count fun y => ?_, { h.closedQuiet with }⟩
  simp only [count_tags, hq, List.map_cons, count_tag_cons, State.setCmdq_cmdq, State.setCmdq_pending,
    State.setCmdq_waitq, State.setCmdq_results]
  omega

/-- A pending entry is removed: its tag is in hand, and its key is free. -/
theorem State.InvWith.removePending {x : Tag} {p : Pending} (h : s.InvWith held none)
    (hp : FMap.get? s.pending x = some p) :
    (s.setPending (FMap.del s.pending x)).InvWith (x :: held) (some p.key) := by
  have hmem := FMap.mem_of_get?_eq_some hp
  refine ⟨{ h.tables with
      pendingRising := FMap.rising_del h.tables.pendingRising x
      onePending := h.tables.onePending.sublist List.filter_sublist
      deferredBusy := fun e he hne => ?busy
      pendingAgrees := fun e he => h.tables.pendingAgrees e (FMap.mem_del.1 he).1 },
    { h.chanOk with }, h.outcomeOnce.of_count fun y => ?count, .of_opened (h.closedQuiet.opened_of_pending hp)⟩
  case busy =>
    obtain ⟨e', he', hk⟩ := (busy_iff s e.1).1 (h.tables.deferredBusy e he (by simp))
    refine (busy_iff _ _).2 ⟨e', FMap.mem_del.2 ⟨he', fun hx => hne ?_⟩, hk⟩
    have hpe := FMap.get?_of_mem h.tables.pendingRising (k := e'.1) (v := e'.2) he'
    rw [hx, hp] at hpe
    rw [← hk, ← Option.some.inj hpe]
  case count =>
    have hone := h.count_le_one x
    have hpos : 0 < (s.pending.map Prod.fst).count x := List.count_pos_iff.2 (List.mem_map_of_mem hmem)
    simp only [count_tags, count_tag_cons, count_del, State.setPending_cmdq, State.setPending_pending,
      State.setPending_waitq, State.setPending_results] at hone ⊢
    by_cases hyx : y = x
    · subst hyx; simp only [if_true]; omega
    · simp only [if_neg hyx]; omega

/-- An entry is opened on a free key under a tag in hand. -/
theorem State.InvWith.putPending {x : Tag} {p : Pending} (h : s.InvWith (x :: held) (some p.key))
    (hc : s.conn = .opened) (hfree : ∀ e ∈ s.pending, e.2.key ≠ p.key) (hp : p.Agrees) :
    (s.setPending (FMap.put id s.pending x p)).InvWith held none := by
  have hzero := h.count_eq_zero
  rw [count_tags] at hzero
  have hnone : FMap.get? s.pending x = none := get?_pending_of_count (by omega)
  refine ⟨{ h.tables with
      pendingRising := FMap.rising_put (fun _ _ => id) h.tables.pendingRising x p
      onePending := h.tables.onePending.put hfree x
      deferredBusy := fun e he _ => ?busy
      pendingAgrees := fun e he => ?agrees },
    { h.chanOk with }, h.outcomeOnce.of_count fun y => ?count, .of_opened hc⟩
  case busy =>
    rw [busy_iff]
    by_cases hk : e.1 = p.key
    · exact ⟨(x, p), FMap.mem_of_get?_eq_some (FMap.get?_put_self _ _ _), hk.symm⟩
    · obtain ⟨e', he', hk'⟩ := (busy_iff s e.1).1 (h.tables.deferredBusy e he fun he => hk (Option.some.inj he))
      have hget : FMap.get? s.pending e'.1 = some e'.2 := FMap.get?_of_mem h.tables.pendingRising he'
      have hne : x ≠ e'.1 := fun hx => by rw [← hx, hnone] at hget; cases hget
      exact ⟨e', FMap.mem_of_get?_eq_some ((FMap.get?_put_of_ne hne).trans hget), hk'⟩
  case agrees =>
    rcases FMap.mem_put he with rfl | he
    · exact hp
    · exact h.tables.pendingAgrees e he
  case count =>
    simp only [count_tags, count_tag_cons, count_put hnone, State.setPending_cmdq, State.setPending_pending,
      State.setPending_waitq, State.setPending_results]
    omega

/-- The lists of deferred requests once the list of one key is replaced. -/
theorem State.TablesOk.waitSet {loose' : Option BusyKey} {key : BusyKey} {l : List Deferred} (h : s.TablesOk loose)
    (hbusy : some key ≠ loose' → s.busy key = true) (hloose : ∀ k, some k ≠ loose' → some k ≠ loose)
    (hpol : Config.cfg.busyPolicy = .failFast → l = [])
    (hl : ∀ d ∈ l, d.Agrees key) : (s.setWaitq (waitSet s.waitq key l)).TablesOk loose' := by
  refine { h with
    waitqRising := rising_waitSet h.waitqRising key l
    waitqFilled := fun e he => ?_
    deferredBusy := fun e he hne => ?_
    failFast := fun hff => ?_
    deferredAgrees := fun e he => ?_ }
  · rcases mem_waitSet he with ⟨rfl, hne⟩ | he
    · exact hne
    · exact h.waitqFilled e he
  · rcases mem_waitSet he with ⟨rfl, -⟩ | he
    · exact hbusy hne
    · exact h.deferredBusy e he (hloose _ hne)
  · rw [State.setWaitq_waitq, hpol hff, h.failFast hff]; rfl
  · rcases mem_waitSet he with ⟨rfl, -⟩ | he
    · exact hl
    · exact h.deferredAgrees e he

theorem State.TablesOk.agrees_of_mem_waiting {key : BusyKey} (h : s.TablesOk loose) :
    ∀ d ∈ s.waiting key, d.Agrees key := fun d hd => by
  obtain ⟨l, hl, hmem⟩ := mem_waiting hd
  exact h.deferredAgrees _ hl d hmem

theorem State.TablesOk.waiting_of_failFast {key : BusyKey} (h : s.TablesOk loose)
    (hff : Config.cfg.busyPolicy = .failFast) : s.waiting key = [] := by
  rw [State.waiting, h.failFast hff]; rfl

/-- The oldest deferred request of a free key is taken in hand. -/
theorem State.InvWith.takeDeferred {key : BusyKey} {d : Deferred} {rest : List Deferred}
    (h : s.InvWith held (some key)) (hc : s.conn = .opened) (hw : s.waiting key = d :: rest) :
    (s.setWaitq (waitSet s.waitq key rest)).InvWith (d.tag :: held) (some key) := by
  have hagrees := h.tables.agrees_of_mem_waiting (key := key)
  refine ⟨h.tables.waitSet (fun hne => absurd rfl hne) (fun _ => id) (fun hff => ?policy)
      fun d' hd' => hagrees d' (hw ▸ List.mem_cons_of_mem _ hd'),
    { h.chanOk with }, h.outcomeOnce.of_count fun y => ?count, .of_opened hc⟩
  case policy => rw [h.tables.waiting_of_failFast hff] at hw; cases hw
  case count =>
    have hcount := count_waitSet h.tables.waitqRising key rest y
    have hw' : (FMap.get? s.waitq key).getD [] = d :: rest := hw
    rw [hw', List.map_cons, count_tag_cons] at hcount
    simp only [count_tags, count_tag_cons, State.setWaitq_cmdq, State.setWaitq_pending, State.setWaitq_waitq,
      State.setWaitq_results]
    omega

/-- A request in hand is deferred behind the pending entry of its key. -/
theorem State.InvWith.deferRequest {x : Tag} {key : BusyKey} {c : Command} {bytes : List Byte}
    (h : s.InvWith (x :: held) none) (hc : s.conn = .opened) (hb : s.busy key = true)
    (hpol : Config.cfg.busyPolicy = .wait) (hd : Deferred.Agrees ⟨x, c, bytes⟩ key) :
    (s.setWaitq (waitSet s.waitq key (s.waiting key ++ [⟨x, c, bytes⟩]))).InvWith held none := by
  refine ⟨h.tables.waitSet (fun _ => hb) (fun _ => id) (fun hff => ?policy) fun d' hd' => ?agrees,
    { h.chanOk with }, h.outcomeOnce.of_count fun y => ?count, .of_opened hc⟩
  case policy => rw [hpol] at hff; cases hff
  case agrees =>
    rcases List.mem_append.1 hd' with hd' | hd'
    · exact h.tables.agrees_of_mem_waiting d' hd'
    · rw [List.mem_singleton.1 hd']; exact hd
  case count =>
    have hcount := count_waitSet h.tables.waitqRising key (s.waiting key ++ [⟨x, c, bytes⟩]) y
    simp only [count_tags, count_tag_cons, State.setWaitq_cmdq, State.setWaitq_pending, State.setWaitq_waitq,
      State.setWaitq_results, State.waiting, List.map_append, List.count_append, List.map_cons, List.map_nil,
      List.count_nil] at hcount ⊢
    omega

/-- A deferred request is taken off its list. -/
theorem State.InvWith.removeDeferred {x : Tag} (h : s.InvWith held none) (hx : x ∈ waitTags s.waitq) :
    (s.setWaitq (waitRemove x s.waitq)).InvWith (x :: held) none := by
  refine ⟨{ h.tables with
      waitqRising := rising_waitRemove h.tables.waitqRising x
      waitqFilled := fun e he => (mem_waitRemove he).1
      deferredBusy := fun e he hne => ?busy
      failFast := fun hff => ?policy
      deferredAgrees := fun e he d hd => ?agrees },
    { h.chanOk with }, h.outcomeOnce.of_count fun y => ?count, { h.closedQuiet with waitq := fun hc => ?quiet }⟩
  case busy =>
    obtain ⟨-, l, hl, -⟩ := mem_waitRemove he
    exact h.tables.deferredBusy (e.1, l) hl hne
  case policy => rw [State.setWaitq_waitq, h.tables.failFast hff]; rfl
  case agrees =>
    obtain ⟨-, l, hl, hsub⟩ := mem_waitRemove he
    exact h.tables.deferredAgrees _ hl d (hsub d hd)
  case quiet => rw [State.setWaitq_waitq, h.closedQuiet.waitq hc]; rfl
  case count =>
    have hone := h.count_le_one x
    have hpos : 0 < (waitTags s.waitq).count x := List.count_pos_iff.2 hx
    simp only [count_tags, count_tag_cons, count_waitRemove, State.setWaitq_cmdq, State.setWaitq_pending,
      State.setWaitq_waitq, State.setWaitq_results] at hone ⊢
    by_cases hyx : y = x
    · subst hyx; simp only [if_true]; omega
    · simp only [if_neg hyx]; omega

/-- The connection is closed: every tag in flight has its outcome (R217). -/
theorem State.InvWith.close (h : s.InvWith held loose) (r : CloseReason) : (doClose r s).InvWith held none := by
  rw [doClose_eq]
  refine ⟨?tables, { h.chanOk.chanMap _ _ with }, h.outcomeOnce.of_count fun y => ?count, ?quiet⟩
  case tables =>
    constructor <;> simp [FMap.Rising, State.OnePending]
  case quiet =>
    refine ⟨fun _ => rfl, fun _ => rfl, fun _ => rfl, fun _ m => Vector.getElem_replicate _, fun _ e he => ?_⟩
    obtain ⟨c, -, hforget, -⟩ := mem_chanMap (sel := fun _ => true) (g := ChannelState.forget) (file := s.chan) he
    rw [hforget]; exact ⟨rfl, rfl⟩
  case count =>
    have hle : ∀ z, (s.pending.map Prod.fst ++ waitTags s.waitq).count z ≤ 1 := fun z => by
      have hz := h.count_le_one z
      rw [count_tags] at hz
      rw [List.count_append]; omega
    have hflight : s.inFlight.count y = _ := count_sortTags hle y
    have hmap : (s.inFlight.map fun t => (t, OpOutcome.err .disconnected)).map Prod.fst = s.inFlight := by
      simp [Function.comp_def]
    simp only [count_tags, List.map_append, hmap, List.count_append, hflight, List.map_nil, List.count_nil, waitTags,
      List.flatMap_nil]
    omega

/-! ### Sending -/

/-- The entry that issuing a request opens says what the request and its key say. -/
theorem newPending_agrees {key : BusyKey} {d : Deferred} (h : d.Agrees key) (now : Ticks) :
    (newPending Config.cfg key d.op now).Agrees :=
  ⟨rfl, rfl, h.requestKey, rfl, h.checked⟩

theorem State.InvWith.issue {x : Tag} {key : BusyKey} {c : Command} {bytes : List Byte}
    (h : s.InvWith (x :: held) (some key)) (hc : s.conn = .opened) (hfree : ∀ e ∈ s.pending, e.2.key ≠ key)
    (hd : Deferred.Agrees ⟨x, c, bytes⟩ key) : (issue Config.cfg key x c bytes s).InvWith held none := by
  cases ha : s.nextAnswer with
  | ok =>
    rw [issue_of_ok key x c bytes ha]
    have h' : (s.answered.pushTx bytes .ok).InvWith (x :: held) (some key) := h.of_same (.of_opened hc)
    exact h'.putPending (p := newPending Config.cfg key c s.now) hc hfree (newPending_agrees hd _)
  | error =>
    rw [issue_of_error key x c bytes ha]
    have h' : (s.answered.pushTx bytes .error).InvWith (x :: held) (some key) := h.of_same (.of_opened hc)
    exact (h'.close .writeError).pushResult _

theorem State.InvWith.issueNext {key : BusyKey} (h : s.InvWith held (some key)) (hc : s.conn = .opened)
    (hfree : ∀ e ∈ s.pending, e.2.key ≠ key) : (issueNext Config.cfg key s).InvWith held none := by
  obtain ⟨d, rest, -, hw, hi⟩ | ⟨hn, hi⟩ := issueNext_cases Config.cfg key s <;> rw [hi]
  · have hd : d.Agrees key := h.tables.agrees_of_mem_waiting d (hw ▸ List.mem_cons_self)
    exact (h.takeDeferred hc hw).issue hc hfree hd
  · have hw : s.waiting key = [] := hn.resolve_left (by simp [hc])
    exact h.tighten (h.tables.ne_of_waiting_nil hw)

theorem State.InvWith.finish {x : Tag} {p : Pending} (h : s.InvWith held none) (hp : FMap.get? s.pending x = some p)
    (o : OpOutcome) : (finish Config.cfg x p o s).InvWith held none :=
  ((h.removePending hp).pushResult o).issueNext (h.closedQuiet.opened_of_pending hp)
    (h.tables.onePending.free_of_del (FMap.mem_of_get?_eq_some hp))

/-! ### The channel file -/

theorem State.ChanOk.updateChan (h : s.ChanOk) {m : ModuleAddress} {ch : Channel}
    (hch : 1 ≤ ch ∧ ch ≤ Config.cfg.numChannels) (g : ChannelState → ChannelState) : (s.updateChan m ch g).ChanOk := by
  refine ⟨ChanFile.wf_chanSet h.chanForm _ _, fun e he => ?_⟩
  rw [State.updateChan_chan, chanSet] at he
  split at he
  · exact h.chanInRange e (FMap.mem_del.1 he).1
  · rcases FMap.mem_put he with rfl | he
    · exact hch
    · exact h.chanInRange e he

/-- The outbound effect of a command past its checks is on a channel in range. -/
theorem State.ChanOk.applyOutbound (h : s.ChanOk) {c : Command} {m m' : ModuleAddress}
    (hi : checkInputs Config.cfg (c.row Config.cfg) = .ok m') : (applyOutbound c m s).ChanOk := by
  have hrange : ∀ ch, (c.row Config.cfg).ch = some ch → 1 ≤ ch ∧ ch ≤ Config.cfg.numChannels :=
    fun ch hch => (checkInputs_channel hi hch).1
  cases c with
  | setEnable ch | moveHome ch | moveRelative ch | moveAbsolute ch | moveJog ch | moveVelocity ch =>
    exact h.updateChan (hrange ch rfl) _
  | _ => exact { h with }

/-- The channel that a frame is about is in range: by its identifier, or as the channel of an entry past its checks. -/
theorem channelOf_inRange {k : Kind} {f : Frame} {p : Option Pending} {ch : Channel}
    (hp : ∀ q, p = some q → q.Agrees) (h : channelOf Config.cfg k f p = some ch) :
    1 ≤ ch ∧ ch ≤ Config.cfg.numChannels := by
  unfold channelOf at h
  split at h
  · split at h
    · exact (chanOfIdent_spec h).2
    · cases h
  · obtain ⟨v, -, hv⟩ := Option.bind_eq_some_iff.1 h
    exact (chanOfIdent_spec hv).2
  · obtain ⟨q, hq, hch⟩ := Option.bind_eq_some_iff.1 h
    have hagrees := hp q hq
    exact (checkInputs_channel hagrees.checked (hagrees.channel ▸ hch)).1

theorem State.ChanOk.updateChannel (h : s.ChanOk) {k : Kind} {f : Frame} {p : Option Pending}
    (hp : ∀ q, p = some q → q.Agrees) (eff : Effect) : (updateChannel Config.cfg k eff f p s).ChanOk := by
  cases eff with
  | nothing => exact h
  | perChannel g =>
    cases hch : channelOf Config.cfg k f p with
    | none => rwa [updateChannel_perChannel_of_none hch]
    | some ch =>
      simp only [Machine.updateChannel, hch]
      exact h.updateChan (channelOf_inRange hp hch) _
  | moduleWide g => exact h.chanMap _ g

/-- A change of the channel file and of the subscriptions on an open connection. -/
theorem State.InvWith.of_chanOk (h : s.InvWith held loose) (hc : t.conn = .opened) (hchan : t.ChanOk)
    (ht : t = { s with chan := t.chan, subs := t.subs, txlog := t.txlog, env := t.env, notify := t.notify }) :
    t.InvWith held loose := by
  refine ⟨?_, hchan, ?_, .of_opened hc⟩
  · rw [ht]; exact { h.tables with }
  · rw [ht]; exact h.outcomeOnce

/-! ### Every operation of the host -/

theorem State.InvWith.doFire {x : Tag} {c : Command} {m : ModuleAddress} (h : s.InvWith (x :: held) none)
    (hc : s.conn = .opened) (hi : checkInputs Config.cfg (c.row Config.cfg) = .ok m) (bytes : List Byte) :
    (doFire x c m bytes s).InvWith held none := by
  obtain ⟨-, hd⟩ | ⟨-, hd⟩ := doFire_cases x c m bytes s <;> rw [hd]
  · have hchan : (s.answered.pushTx bytes .ok).ChanOk := { h.chanOk with }
    refine (h.of_chanOk ?_ (hchan.applyOutbound hi) ?_).pushResult _ <;> rw [applyOutbound_eq]
    · exact hc
    · rfl
  · have h' : (s.answered.pushTx bytes .error).InvWith (x :: held) none := h.of_same (.of_opened hc)
    exact (h'.close .writeError).pushResult _

theorem State.InvWith.doRequest {x : Tag} {key : BusyKey} {c : Command} {bytes : List Byte}
    (h : s.InvWith (x :: held) none) (hc : s.conn = .opened) (hd : Deferred.Agrees ⟨x, c, bytes⟩ key) :
    (doRequest Config.cfg key x c bytes s).InvWith held none := by
  obtain ⟨-, -, hr⟩ | ⟨hb, hp, hr⟩ | ⟨hfree, hr⟩ := doRequest_cases Config.cfg key x c bytes s <;> rw [hr]
  · exact h.pushResult _
  · exact h.deferRequest hc hb hp hd
  · exact (h.loosen key).issue hc hfree hd

theorem State.InvWith.doCancel {x : Tag} (h : s.InvWith (x :: held) none) (target : Tag) :
    (doCancel Config.cfg x target s).InvWith held none := by
  obtain ⟨p, hp, hd⟩ | ⟨-, hw, hd⟩ | ⟨-, -, hd⟩ := doCancel_cases Config.cfg x target s <;> rw [hd]
  · exact (h.finish hp _).pushResult _
  · exact ((h.removeDeferred hw).pushResult _).pushResult _
  · exact h.pushResult _

theorem State.InvWith.runCommand {x : Tag} (h : s.InvWith (x :: held) none) (c : Command) :
    (runCommand Config.cfg x c s).InvWith held none := by
  obtain ⟨code, hr⟩ | ⟨m, bytes, hi, hc, -, -, hr⟩ | ⟨m, bytes, key, hi, hc, he, hk, hr⟩ :=
    runCommand_cases Config.cfg x c s <;> rw [hr]
  · exact h.pushResult _
  · exact h.doFire hc hi bytes
  · have hm : key.dest = m := by rw [requestKey_eq_some hk]
    subst hm
    exact h.doRequest hc ⟨hk, hi, he⟩

theorem State.InvWith.process (h : s.InvWith held none) : (process Config.cfg s).InvWith held none := by
  obtain ⟨-, hp⟩ | ⟨x, target, rest, hq, hp⟩ | ⟨x, c, rest, hq, hp⟩ := process_cases Config.cfg s <;> rw [hp]
  · exact h
  · exact (h.takeOp hq).doCancel target
  · exact (h.takeOp hq).runCommand c

/-! ### Every other event -/

/-- Counting one number more. -/
theorem ite_lt_succ (a n : Nat) :
    (if a < n + 1 then 1 else 0) = (if a < n then 1 else 0) + if a = n then 1 else 0 := by
  split_ifs <;> omega

theorem State.InvWith.accept (h : s.InvWith [] none) (op : Op) : (accept op s).InvWith [] none := by
  refine ⟨{ h.tables with }, { h.chanOk with }, fun y => ?_, { h.closedQuiet with }⟩
  have hy := h.outcomeOnce y
  refine Eq.trans ?_ (ite_lt_succ y s.nextTag).symm
  simp only [count_tags, Machine.accept, State.setNextTag_cmdq, State.setNextTag_pending, State.setNextTag_waitq,
    State.setNextTag_results, State.setCmdq_cmdq, State.setCmdq_pending, State.setCmdq_waitq,
    State.setCmdq_results, List.map_append, List.count_append, List.map_cons, List.map_nil, count_tag_cons,
    List.count_nil] at hy ⊢
  omega

theorem State.InvWith.receive (h : s.InvWith held loose) (bs : List Byte) : (receiveBytes bs s).InvWith held loose := by
  cases hc : s.conn with
  | opened => rw [receiveBytes_of_opened bs hc]; exact h.of_same (.of_opened hc)
  | closed => rwa [receiveBytes_of_closed bs hc]

theorem State.InvWith.tick (h : s.InvWith held loose) (n : Ticks) : (tick n s).InvWith held loose := by
  unfold Machine.tick
  split
  · exact h.of_same { h.closedQuiet with }
  · exact h

theorem State.InvWith.expire (h : s.InvWith held none) (x : Tag) : (expire Config.cfg x s).InvWith held none := by
  obtain ⟨p, hp, -, he⟩ | ⟨-, he⟩ := expire_cases Config.cfg x s <;> rw [he]
  · exact h.finish hp _
  · exact h

theorem State.InvWith.closeEvent (h : s.InvWith held none) : (Machine.close s).InvWith held none := by
  obtain ⟨-, hc⟩ | ⟨-, hc⟩ := close_cases s <;> rw [hc]
  · exact h.close _
  · exact h

theorem reset_invWith (env : Env) : (State.reset.setEnv env).InvWith [] none := by
  refine ⟨?_, ?_, fun x => by simp [State.tags, waitTags, State.reset, State.setEnv],
    .of_opened rfl⟩
  · constructor <;> simp [State.reset, State.setEnv, FMap.Rising, State.OnePending]
  · constructor <;> simp [State.reset, State.setEnv, ChanFile.wf, FMap.Rising]

theorem State.InvWith.reconnect (h : s.InvWith [] none) : (reconnect s).InvWith [] none := by
  obtain ⟨-, -, hr⟩ | ⟨-, hr⟩ := reconnect_cases s <;> rw [hr]
  · exact reset_invWith s.env
  · exact h

theorem State.InvWith.dispatch (h : s.InvWith held none) (hc : s.conn = .opened) (k : Kind) (eff : Effect) (f : Frame) :
    (dispatch Config.cfg k eff f s).InvWith held none := by
  have hupdate : ∀ p : Option Pending, (∀ q, p = some q → q.Agrees) →
      (updateChannel Config.cfg k eff f p s).InvWith held none := fun p hp => by
    refine h.of_chanOk ?_ (h.chanOk.updateChannel hp eff) ?_ <;> rw [updateChannel_eq_setChan]
    · exact hc
    · rfl
  obtain ⟨x, p, hm, hd⟩ | ⟨-, hd⟩ := dispatch_cases Config.cfg k eff f s <;> rw [hd]
  · have h' := hupdate (some p) fun q hq => by
      cases hq; exact h.tables.pendingAgrees _ (mem_of_matching hm).1
    obtain ⟨q, hq, hcomp⟩ | ⟨-, hcomp⟩ := complete_cases Config.cfg x (.reply f) _ <;> rw [hcomp]
    · exact h'.finish hq _
    · exact h'
  · have h' := hupdate none (by simp)
    exact h'.of_same { h'.closedQuiet with }

theorem State.InvWith.deframe (h : s.InvWith held none) (hd : deframe exec s = .next t) : t.InvWith held none := by
  obtain ⟨id, hc, -, he⟩ | ⟨i, rest, hc, -, he⟩ | ⟨-, he⟩ := deframe_cases exec s <;> rw [he] at hd
  · cases hd; exact h.of_same (.of_opened hc)
  · have h' : (s.setRx rest).InvWith held none := h.of_same (.of_opened hc)
    obtain ⟨e, -, hx⟩ | ⟨f, -, hx⟩ := exec_cases i (s.setRx rest) <;> cases hx.symm.trans hd
    · exact h'.of_same (.of_opened hc)
    · exact h'.dispatch hc _ _ f
  · cases hd; exact h

/-! ### Every step -/

theorem perform_keeps_invWith {e : Event} (h : s.InvWith [] none)
    (hp : perform Config.cfg (deframe exec) e s = .next t) : t.InvWith [] none := by
  cases e with
  | deframe => exact h.deframe hp
  | accept op => cases hp; exact h.accept op
  | process => cases hp; exact h.process
  | receive bs => cases hp; exact h.receive bs
  | tick n => cases hp; exact h.tick n
  | expire x => cases hp; exact h.expire x
  | close => cases hp; exact h.closeEvent
  | reconnect => cases hp; exact h.reconnect

/-- Settles O51: a step performs one event, and every part of every event keeps the invariant with the tags in hand. -/
theorem stepKeepsInvariant : Obligations.StepKeepsInvariant := by
  intro s t h hs
  have h' : (s.setEnv s.env.drawEvent.2).InvWith [] none :=
    (inv_iff_invWith.1 h).of_same { h.closedQuiet with }
  exact inv_iff_invWith.2 (perform_keeps_invWith h' hs)

theorem reset_inv (env : Env) : (State.reset.setEnv env).Inv := inv_iff_invWith.2 (reset_invWith env)

/-- Settles O50: nothing is in the reset state that the invariant could be wrong about. -/
theorem resetMeetsInvariant : Obligations.ResetMeetsInvariant :=
  fun env => ⟨reset_inv env, reset_inv env, fun _ he => nomatch he⟩

theorem Reachable.inv (h : Reachable s) : s.Inv := h.of_invariant reset_inv stepKeepsInvariant

/-- Settles O54: the invariant holds in every reachable state, and its tags are counted place by place. -/
theorem reachableTagsHaveOneOutcome : Obligations.ReachableTagsHaveOneOutcome :=
  fun _ h x => count_tags x ▸ h.inv.outcomeOnce x

end Sys2Proof.Machine
end

section
/-! PROOFS. What an operation and a step do to the ports and to the channel file, in every state: the histories are only
appended to, at most one frame is written, and it is the encoding of a command past its checks wherever the deferred
requests are such encodings (R37, R45, R50, R77, R156). -/

namespace Sys2Proof.Machine

variable {cfg : Cfg} {s t u : State} {ok : List Byte → Prop}

/-! ### What an operation leaves of the ports and of the channel file -/

/-- At most one frame is handed to the transport, and its bytes satisfy `ok`. -/
def WritesOne (ok : List Byte → Prop) (s t : State) : Prop :=
  t.txlog = s.txlog ∨ ∃ bytes a, ok bytes ∧ t.txlog = s.txlog ++ [(bytes, a)]

/-- The ports and the clock over an operation that moves neither time nor tags and emits no notification. -/
structure PortsRun (ok : List Byte → Prop) (s t : State) : Prop where
  now : t.now = s.now
  nextTag : t.nextTag = s.nextTag
  notify : t.notify = s.notify
  rx : t.rx = s.rx ∨ t.rx = []
  events : s.events <+: t.events
  results : s.results <+: t.results
  txlog : WritesOne ok s t

/-- An operation that leaves the channel file as it is, or closes the connection and forgets the channels. -/
structure EngineRun (ok : List Byte → Prop) (s t : State) : Prop extends PortsRun ok s t where
  chan : t.chan = s.chan ∨ t.chan = chanMap (fun _ => true) ChannelState.forget s.chan

/-- An operation of the host, which may also make the outbound change of a command. -/
structure HostRun (ok : List Byte → Prop) (s t : State) : Prop extends PortsRun ok s t where
  chan : (t.chan = s.chan ∨ t.chan = chanMap (fun _ => true) ChannelState.forget s.chan) ∨
    ∃ c m, t.chan = (applyOutbound c m s).chan

theorem EngineRun.hostRun (h : EngineRun ok s t) : HostRun ok s t := { h with chan := .inl h.chan }

theorem EngineRun.refl (s : State) : EngineRun ok s s :=
  ⟨⟨rfl, rfl, rfl, .inl rfl, List.prefix_rfl, List.prefix_rfl, .inl rfl⟩, .inl rfl⟩

theorem EngineRun.pushResult (h : EngineRun ok s t) (x : Tag) (o : OpOutcome) : EngineRun ok s (t.pushResult x o) :=
  { h with results := h.results.trans (List.prefix_append _ _) }

/-- An operation that goes on after an outcome was delivered. -/
theorem EngineRun.after_pushResult {x : Tag} {o : OpOutcome} (h : EngineRun ok (s.pushResult x o) t) :
    EngineRun ok s t :=
  { h with results := (List.prefix_append _ _).trans h.results }

theorem engineRun_doClose (r : CloseReason) (s : State) : EngineRun ok s (doClose r s) := by
  rw [doClose_eq]
  exact ⟨⟨rfl, rfl, rfl, .inr rfl, (List.prefix_append _ _).trans (List.prefix_append _ _), List.prefix_append _ _,
    .inl rfl⟩, .inr rfl⟩

/-- A write answered error. -/
theorem engineRun_writeError {bytes : List Byte} (hok : ok bytes) :
    EngineRun ok s (doClose .writeError (s.answered.pushTx bytes .error)) := by
  have h : EngineRun ok (s.answered.pushTx bytes .error) _ := engineRun_doClose .writeError _
  exact { h with txlog := .inr ⟨bytes, .error, hok, by rw [doClose_eq]; rfl⟩ }

/-! ### Every operation on the tables -/

theorem issue_run (key : BusyKey) (x : Tag) (c : Command) {bytes : List Byte} (hok : ok bytes) :
    EngineRun ok s (issue cfg key x c bytes s) := by
  cases ha : s.nextAnswer with
  | ok =>
    rw [issue_of_ok key x c bytes ha]
    exact { EngineRun.refl (ok := ok) s with txlog := .inr ⟨bytes, .ok, hok, rfl⟩ }
  | error =>
    rw [issue_of_error key x c bytes ha]
    exact (engineRun_writeError hok).pushResult _ _

theorem issueNext_run (key : BusyKey) (hok : ∀ e ∈ s.waitq, ∀ d ∈ e.2, ok d.bytes) :
    EngineRun ok s (issueNext cfg key s) := by
  obtain ⟨d, rest, -, hw, h⟩ | ⟨-, h⟩ := issueNext_cases cfg key s <;> rw [h]
  · obtain ⟨l, hl, hd⟩ := mem_waiting (hw ▸ List.mem_cons_self)
    exact { issue_run (s := s.setWaitq (waitSet s.waitq key rest)) key d.tag d.op (hok _ hl d hd) with }
  · exact .refl s

theorem finish_run (x : Tag) (p : Pending) (o : OpOutcome) (hok : ∀ e ∈ s.waitq, ∀ d ∈ e.2, ok d.bytes) :
    EngineRun ok s (finish cfg x p o s) := by
  have h : EngineRun ok ((s.setPending (FMap.del s.pending x)).pushResult x o) (finish cfg x p o s) :=
    issueNext_run p.key hok
  exact { h.after_pushResult with }

theorem complete_run (x : Tag) (o : OpOutcome) (hok : ∀ e ∈ s.waitq, ∀ d ∈ e.2, ok d.bytes) :
    EngineRun ok s (complete cfg x o s) := by
  obtain ⟨p, -, h⟩ | ⟨-, h⟩ := complete_cases cfg x o s <;> rw [h]
  · exact finish_run x p o hok
  · exact .refl s

theorem expire_run (x : Tag) (hok : ∀ e ∈ s.waitq, ∀ d ∈ e.2, ok d.bytes) : EngineRun ok s (expire cfg x s) := by
  obtain ⟨p, -, -, h⟩ | ⟨-, h⟩ := expire_cases cfg x s <;> rw [h]
  · exact finish_run x p _ hok
  · exact .refl s

theorem close_run (s : State) : EngineRun ok s (close s) := by
  obtain ⟨-, h⟩ | ⟨-, h⟩ := close_cases s <;> rw [h]
  · exact engineRun_doClose _ s
  · exact .refl s

/-! ### Every operation of the host -/

/-- The outbound change of a command reads nothing but the channel file. -/
theorem applyOutbound_chan (c : Command) (m : ModuleAddress) (h : t.chan = s.chan := by rfl) :
    (applyOutbound c m t).chan = (applyOutbound c m s).chan := by
  cases c <;> simp [applyOutbound, State.chanOf, h]

theorem doCancel_run (x target : Tag) (hok : ∀ e ∈ s.waitq, ∀ d ∈ e.2, ok d.bytes) :
    EngineRun ok s (doCancel cfg x target s) := by
  obtain ⟨p, -, h⟩ | ⟨-, -, h⟩ | ⟨-, -, h⟩ := doCancel_cases cfg x target s <;> rw [h]
  · exact (finish_run target p _ hok).pushResult _ _
  · exact { ((EngineRun.refl (ok := ok) s).pushResult target (.err .cancelled)).pushResult x .ok with }
  · exact (EngineRun.refl s).pushResult _ _

theorem doRequest_run (key : BusyKey) (x : Tag) (c : Command) {bytes : List Byte} (hok : ok bytes) :
    EngineRun ok s (doRequest cfg key x c bytes s) := by
  obtain ⟨-, -, h⟩ | ⟨-, -, h⟩ | ⟨-, h⟩ := doRequest_cases cfg key x c bytes s <;> rw [h]
  · exact (EngineRun.refl s).pushResult _ _
  · exact { EngineRun.refl (ok := ok) s with }
  · exact issue_run key x c hok

theorem doFire_run (x : Tag) (c : Command) (m : ModuleAddress) {bytes : List Byte} (hok : ok bytes) :
    HostRun ok s (doFire x c m bytes s) := by
  obtain ⟨-, h⟩ | ⟨-, h⟩ := doFire_cases x c m bytes s <;> rw [h]
  · rw [applyOutbound_eq]
    exact { ((EngineRun.refl (ok := ok) s).pushResult x .ok) with
      txlog := .inr ⟨bytes, .ok, hok, rfl⟩, chan := .inr ⟨c, m, applyOutbound_chan c m⟩ }
  · exact ((engineRun_writeError hok).pushResult _ _).hostRun

theorem runCommand_run (x : Tag) (c : Command)
    (hok : ∀ m bytes, checkInputs cfg (c.row cfg) = .ok m → (c.row cfg).encoded cfg = .ok bytes → ok bytes) :
    HostRun ok s (runCommand cfg x c s) := by
  obtain ⟨code, h⟩ | ⟨m, bytes, hi, -, he, -, h⟩ | ⟨m, bytes, key, hi, -, he, -, h⟩ := runCommand_cases cfg x c s <;>
    rw [h]
  · exact ((EngineRun.refl s).pushResult _ _).hostRun
  · exact doFire_run x c m (hok m bytes hi he)
  · exact (doRequest_run key x c (hok m bytes hi he)).hostRun

/-- The operations of the host write the encodings of commands past their checks, and deferred requests. -/
theorem process_run (hw : ∀ e ∈ s.waitq, ∀ d ∈ e.2, ok d.bytes)
    (hok : ∀ c m bytes, checkInputs cfg (Command.row cfg c) = .ok m → (Command.row cfg c).encoded cfg = .ok bytes →
      ok bytes) : HostRun ok s (process cfg s) := by
  obtain ⟨-, h⟩ | ⟨x, target, rest, -, h⟩ | ⟨x, c, rest, -, h⟩ := process_cases cfg s <;> rw [h]
  · exact (EngineRun.refl s).hostRun
  · exact EngineRun.hostRun { doCancel_run (s := s.setCmdq rest) x target hw with }
  · have hrun : HostRun ok (s.setCmdq rest) _ := runCommand_run x c (hok c)
    exact { hrun with
      chan := hrun.chan.imp_right fun ⟨c', m, hchan⟩ => ⟨c', m, hchan.trans (applyOutbound_chan c' m)⟩ }

/-! ### Receiving a frame -/

/-- A frame that answers an entry updates the channel file and then ends the entry; any other one updates the channel
file and is emitted on `NOTIFY`. -/
theorem dispatch_run (k : Kind) (eff : Effect) (f : Frame) (hw : ∀ e ∈ s.waitq, ∀ d ∈ e.2, ok d.bytes) :
    (∃ p, EngineRun ok (updateChannel cfg k eff f p s) (dispatch cfg k eff f s)) ∨
      dispatch cfg k eff f s = (updateChannel cfg k eff f none s).pushNotify f := by
  obtain ⟨x, p, -, h⟩ | ⟨-, h⟩ := dispatch_cases cfg k eff f s <;> rw [h]
  · refine .inl ⟨some p, complete_run x _ ?_⟩
    rw [updateChannel_eq_setChan]
    exact hw
  · exact .inr rfl

/-! ### Every step -/

/-- The histories are extended at their ends, by one write at most, and time and tags do not go back. -/
structure State.Grows (ok : List Byte → Prop) (s t : State) : Prop where
  txlog : WritesOne ok s t
  results : s.results <+: t.results
  notify : s.notify <+: t.notify
  events : s.events <+: t.events
  now : s.now ≤ t.now
  nextTag : s.nextTag ≤ t.nextTag

theorem State.Grows.refl (s : State) : s.Grows ok s :=
  ⟨.inl rfl, List.prefix_rfl, List.prefix_rfl, List.prefix_rfl, Nat.le_refl _, Nat.le_refl _⟩

theorem PortsRun.grows (h : PortsRun ok s t) : s.Grows ok t :=
  ⟨h.txlog, h.results, h.notify ▸ List.prefix_rfl, h.events, h.now.ge, h.nextTag.ge⟩

theorem dispatch_grows (k : Kind) (eff : Effect) (f : Frame) (hw : ∀ e ∈ s.waitq, ∀ d ∈ e.2, ok d.bytes) :
    s.Grows ok (dispatch cfg k eff f s) := by
  obtain ⟨p, h⟩ | h := dispatch_run (cfg := cfg) k eff f hw
  · rw [updateChannel_eq_setChan] at h
    exact { h.grows with }
  · rw [h, updateChannel_eq_setChan]
    exact { State.Grows.refl (ok := ok) s with notify := List.prefix_append _ _ }

theorem exec_grows {i : Instr} (hw : ∀ e ∈ s.waitq, ∀ d ∈ e.2, ok d.bytes) (h : exec i s = .next t) : s.Grows ok t := by
  obtain ⟨e, -, he⟩ | ⟨f, -, he⟩ := exec_cases i s <;> cases he.symm.trans h
  · exact { State.Grows.refl (ok := ok) s with events := List.prefix_append _ _ }
  · exact dispatch_grows _ _ f hw

theorem deframe_grows (hw : ∀ e ∈ s.waitq, ∀ d ∈ e.2, ok d.bytes) (h : deframe exec s = .next t) : s.Grows ok t := by
  obtain ⟨id, -, -, hd⟩ | ⟨i, rest, -, -, hd⟩ | ⟨-, hd⟩ := deframe_cases exec s <;> rw [hd] at h
  · cases h; exact { State.Grows.refl (ok := ok) s with events := List.prefix_append _ _ }
  · exact { exec_grows (s := s.setRx rest) hw h with }
  · cases h; exact .refl s

theorem receiveBytes_grows (bs : List Byte) : s.Grows ok (receiveBytes bs s) := by
  unfold receiveBytes
  split
  · exact { State.Grows.refl (ok := ok) s with }
  · exact .refl s

theorem tick_grows (n : Ticks) : s.Grows ok (tick n s) := by
  unfold tick
  split
  · rename_i h; exact { State.Grows.refl (ok := ok) s with now := h }
  · exact .refl s

/-- A step extends the histories, or it is an enabled `Reconnect`. -/
theorem perform_grows {e : Event} (hw : ∀ e ∈ s.waitq, ∀ d ∈ e.2, ok d.bytes)
    (hok : ∀ c m bytes, checkInputs cfg (Command.row cfg c) = .ok m → (Command.row cfg c).encoded cfg = .ok bytes →
      ok bytes) (h : perform cfg (deframe exec) e s = .next t) :
    s.Grows ok t ∨ (e = .reconnect ∧ s.conn = .closed ∧ s.cmdq = [] ∧ t = State.reset.setEnv s.env) := by
  cases e with
  | deframe => exact .inl (deframe_grows hw h)
  | accept op => cases h; exact .inl { State.Grows.refl (ok := ok) s with nextTag := Nat.le_succ _ }
  | process => cases h; exact .inl (process_run hw hok).grows
  | receive bs => cases h; exact .inl (receiveBytes_grows bs)
  | tick n => cases h; exact .inl (tick_grows n)
  | expire x => cases h; exact .inl (expire_run x hw).grows
  | close => cases h; exact .inl (close_run s).grows
  | reconnect =>
    cases h
    obtain ⟨hc, hq, h⟩ | ⟨-, h⟩ := reconnect_cases s <;> rw [h]
    · exact .inr ⟨rfl, hc, hq, rfl⟩
    · exact .inl (.refl s)

theorem step_grows (hw : ∀ e ∈ s.waitq, ∀ d ∈ e.2, ok d.bytes)
    (hok : ∀ c m bytes, checkInputs Config.cfg (Command.row Config.cfg c) = .ok m →
      (Command.row Config.cfg c).encoded Config.cfg = .ok bytes → ok bytes) (h : step s = .next t) :
    s.Grows ok t ∨ (s.env.drawEvent.1 = .reconnect ∧ s.conn = .closed ∧ s.cmdq = [] ∧
      t = State.reset.setEnv s.env.drawEvent.2) := by
  rw [step_eq_perform] at h
  exact (perform_grows (s := s.setEnv s.env.drawEvent.2) hw hok h).imp_left fun hg => { hg with }

/-- `step_grows` in every state, of the bytes written nothing being said. -/
theorem step_grows_true (h : step s = .next t) :
    s.Grows (fun _ => True) t ∨ (s.env.drawEvent.1 = .reconnect ∧ s.conn = .closed ∧ s.cmdq = [] ∧
      t = State.reset.setEnv s.env.drawEvent.2) :=
  step_grows (fun _ _ _ _ => trivial) (fun _ _ _ _ _ => trivial) h

theorem WritesOne.prefix_txlog (h : WritesOne ok s t) : s.txlog <+: t.txlog := by
  obtain h | ⟨bytes, a, -, h⟩ := h <;> rw [h]
  exact List.prefix_append _ _

theorem WritesOne.length_le (h : WritesOne ok s t) : t.txlog.length ≤ s.txlog.length + 1 := by
  obtain h | ⟨bytes, a, -, h⟩ := h <;> simp [h]

/-- Settles O56: a step extends the histories, unless it is the `Reconnect` that empties them. -/
theorem historiesAndTimeOnlyGrow : Obligations.HistoriesAndTimeOnlyGrow := by
  intro s t h
  refine (step_grows_true h).imp (fun hg => ?_) fun ⟨he, hc, hq, ht⟩ => ⟨he, hc, hq, by rw [ht]; rfl⟩
  exact ⟨hg.txlog.prefix_txlog, hg.results, hg.notify, hg.events, hg.now, hg.nextTag⟩

@[simp] theorem receiveBytes_txlog (bs : List Byte) (s : State) : (receiveBytes bs s).txlog = s.txlog := by
  unfold receiveBytes; split <;> rfl

@[simp] theorem tick_txlog (n : Ticks) (s : State) : (tick n s).txlog = s.txlog := by
  unfold tick; split <;> rfl

@[simp] theorem close_txlog (s : State) : (close s).txlog = s.txlog := by
  obtain ⟨-, h⟩ | ⟨-, h⟩ := close_cases s <;> rw [h]
  rw [doClose_eq]

/-- Settles O57: `WritesOne` for every step, and the events without a write one by one. -/
theorem oneWritePerStep : Obligations.OneWritePerStep := by
  refine ⟨fun s t h => ?_, fun s t e he h => ?_, fun s t h => ?_⟩
  · obtain hg | ⟨-, -, -, rfl⟩ := step_grows_true h
    · exact hg.txlog.length_le
    · exact Nat.zero_le _
  · obtain ⟨op, rfl⟩ | ⟨bs, rfl⟩ | ⟨n, rfl⟩ | rfl := he <;> cases h
    · rfl
    · exact receiveBytes_txlog bs s
    · exact tick_txlog n s
    · exact close_txlog s
  · rw [step_offer, perform_reconnect] at h
    cases h
    obtain ⟨-, -, hr⟩ | ⟨-, hr⟩ := reconnect_cases s
    · exact .inr (by rw [hr]; rfl)
    · exact .inl (by rw [hr])

end Sys2Proof.Machine
end

section
/-! PROOFS. The frames on the wire (R156): what `encode` answers decodes to a frame with the addresses it was given, and a
step writes only such bytes, since deferred requests carry their encodings. -/

namespace Sys2Proof

theorem encodeCheck_of_encodeFrame {cat : List Kind} {id : MsgId} {dest source : Byte} {fields : FrameFields}
    {bs : List Byte} (h : encodeFrame cat id dest source fields = .ok bs) :
    ∃ k d, encodeCheck cat id dest source fields = .ok (k, d) := by
  unfold encodeFrame at h
  split at h
  · cases h
  · exact ⟨_, _, ‹_›⟩

/-- What `encode` answers under a well-formed catalogue decodes, with the addresses that were given. -/
theorem decodeFrame_of_encodeFrame {cat : List Kind} {id : MsgId} {dest source : Byte} {fields : FrameFields}
    {bs : List Byte} (hcat : catalogueWf cat = true) (h : encodeFrame cat id dest source fields = .ok bs) :
    ∃ f, decodeFrame cat bs = .ok f ∧ validate dest = some f.dest ∧ validate source = some f.source ∧
      f.dest ≠ f.source := by
  obtain ⟨k, d, hc⟩ := encodeCheck_of_encodeFrame h
  obtain ⟨m, hl, hd, hm, hne, hf⟩ := encodeCheck_of_ok hc
  obtain ⟨hmem, rfl⟩ := lookup_spec hl
  obtain ⟨bs', f, he, hdec, -, rfl, rfl, -⟩ := frameRoundTrip cat hcat k hmem d m fields hne hf
  rw [eq_code_of_validate hd, eq_code_of_validate hm, he] at h
  cases h
  exact ⟨f, hdec, hd, hm, hne⟩

namespace Machine

variable {s t : State}

/-- Bytes that may be on the wire: a legal frame of the Host's that is the encoding of a message of the catalogue. -/
def HostMessage (bytes : List Byte) : Prop :=
  WireFrame bytes ∧ ∃ id dest fields, encodeFrame catalogue id dest hostAddr fields = .ok bytes

/-- The frame of every command is a legal one of the Host's. -/
theorem hostMessage_of_encoded {c : Command} {bytes : List Byte}
    (h : (c.row Config.cfg).encoded Config.cfg = .ok bytes) : HostMessage bytes := by
  rw [encoded_of_catalogue rfl] at h
  obtain ⟨f, hdec, -, hsource, hne⟩ := decodeFrame_of_encodeFrame catalogueWf_catalogue h
  have hhost : f.source = .host := (validate_eq_some_iff.1 hsource ▸ (code_ne_host f.source)).1 rfl
  exact ⟨⟨f, hdec, hhost, hhost ▸ hne⟩, _, _, _, h⟩

/-- A step from a state that meets the invariant writes legal frames of the Host's only. -/
theorem State.Inv.step_writes (h : s.Inv) (hs : step s = .next t) :
    ∀ e ∈ t.txlog, e ∈ s.txlog ∨ HostMessage e.1 := by
  have hg := step_grows (ok := HostMessage) (fun e he d hd => hostMessage_of_encoded (h.deferredAgrees e he d hd).encoded)
    (fun _ _ _ _ he => hostMessage_of_encoded he) hs
  intro e he
  obtain hg | ⟨-, -, -, rfl⟩ := hg
  · obtain hw | ⟨bytes, a, hok, hw⟩ := hg.txlog
    · exact .inl (hw ▸ he)
    · rw [hw, List.mem_append, List.mem_singleton] at he
      exact he.imp_right fun he => by rw [he]; exact hok
  · cases he

/-- Settles O52: the invariant by O51, and every frame is an old one or one that the step wrote. -/
theorem stepKeepsSafe : Obligations.StepKeepsSafe :=
  fun s t h hs => ⟨stepKeepsInvariant s t h.inv hs, fun e he =>
    (h.inv.step_writes hs e he).elim (h.wire e) fun hm => hm.1⟩

/-- Settles O55, by the invariant that every frame of `txlog` is a message of the Host's. -/
theorem reachableFramesAreLegal : Obligations.ReachableFramesAreLegal := by
  intro s h
  have hinv : s.Inv ∧ ∀ e ∈ s.txlog, HostMessage e.1 := by
    refine h.of_invariant (P := fun s => s.Inv ∧ ∀ e ∈ s.txlog, HostMessage e.1)
      (fun env => ⟨reset_inv env, fun _ he => nomatch he⟩) fun s t hs hst => ?_
    exact ⟨stepKeepsInvariant s t hs.1 hst, fun e he => (hs.1.step_writes hst e he).elim (hs.2 e) id⟩
  exact hinv.2

end Machine

end Sys2Proof
end

section
/-! PROOFS. The stream decoder is the inverse of the encoder: a cut frame is exactly the bytes of its kind and operands
(R90, R102, R133, R134), under any catalogue; and an instruction is known by its kind and its operand bytes. -/

namespace Sys2Proof

variable {cat : List Kind} {k : Kind} {raw : RawFrame} {B rest : List Byte} {i j : Instr}

/-! ### The operand bytes of an instruction -/

/-- The operand bytes have the form of the shape. -/
def RawFrame.hasShape : RawFrame → Shape → Prop
  | .fixed _ _ _ _, shape => shape = .fixed
  | .variableLen _ _ _, shape => shape = .variableLen

/-- The payload's length fits the 16-bit length field. -/
def RawFrame.Fits : RawFrame → Prop
  | .fixed _ _ _ _ => True
  | .variableLen _ _ payload => payload.length ≤ maxPayload

theorem lengthFits_iff : i.lengthFits = true ↔ i.raw.Fits := by
  unfold Instr.lengthFits RawFrame.Fits
  cases i.raw <;> simp

/-- An instruction is known by its kind and its operand bytes. -/
theorem Instr.eq_of_kind_raw (hk : i.kind = j.kind) (hr : i.raw = j.raw) : i = j := by
  obtain ⟨row, hrow, -, hi⟩ := registered i
  obtain ⟨row', hrow', -, hj⟩ := registered j
  rw [hk, hrow'] at hrow
  cases hrow
  rw [hr, hj] at hi
  exact (Option.some.inj hi).symm

theorem Instr.raw_hasShape (i : Instr) : i.raw.hasShape i.kind.shape := by
  obtain ⟨row, hrow, hk, hi⟩ := registered i
  have hb := rows_build row (lookupRow_spec hrow).1
  rw [← hk]
  cases hbuild : row.build with
  | fixed make =>
    rw [hbuild] at hb hi
    cases hr : i.raw with
    | fixed p1 p2 d s => exact hb.1
    | variableLen d s payload => rw [hr] at hi; cases hi
  | variableLen make =>
    rw [hbuild] at hb hi
    cases hr : i.raw with
    | fixed p1 p2 d s => rw [hr] at hi; cases hi
    | variableLen d s payload => exact hb.1

/-! ### The cut of the stream -/

/-- A whole frame at the head of the stream is cut, whatever follows it. -/
theorem cut_bytes (hl : lookup cat k.id = some k) (hs : raw.hasShape k.shape) (hf : raw.Fits) (rest : List Byte) :
    cut cat (raw.bytes k.id ++ rest) = .frame k raw rest := by
  cases raw with
  | fixed p1 p2 d s =>
    have hs' : k.shape = .fixed := hs
    simp [-BitVec.ofNat_toNat, RawFrame.bytes, bytesLe_two, cut, hl, hs']
  | variableLen d s payload =>
    have hs' : k.shape = .variableLen := hs
    have hlt : payload.length < 65536 := Nat.lt_succ_of_le hf
    simp [-BitVec.ofNat_toNat, RawFrame.bytes, bytesLe_two, cut, hl, hs', le16_ofNat hlt, Nat.mod_eq_of_lt hlt]

/-- What is cut is exactly the frame's bytes. -/
theorem eq_bytes_of_cut (h : cut cat B = .frame k raw rest) : B = raw.bytes k.id ++ rest ∧ raw.Fits := by
  unfold cut at h
  split at h
  · rename_i b0 b1 B2
    split at h
    · cases h
    · rename_i k' hl
      have hid : k'.id = le16 b0 b1 := (lookup_spec hl).2
      split at h
      · rename_i b2 b3 b4 b5 tail
        split at h
        · cases h
          simp [RawFrame.bytes, RawFrame.Fits, hid, bytesLe_le16]
        · dsimp only at h
          split at h
          · rename_i hlen
            cases h
            have hlt := (le16 b2 b3).isLt
            simp only [RawFrame.bytes, RawFrame.Fits, hid, List.length_take, Nat.min_eq_left hlen, bytesLe_le16]
            exact ⟨by simp, by unfold maxPayload; omega⟩
          · cases h
      · cases h
  · cases h

/-- The decoder of the stream cuts an instruction exactly where the default catalogue cuts its kind and operands. -/
theorem fetch_eq_frame_iff : fetch B = .frame i rest ↔ cut catalogue B = .frame i.kind i.raw rest := by
  rw [Machine.cut_catalogue]
  cases hf : fetch B with
  | wait => simp
  | unknown id => simp
  | frame j rest' =>
    simp only [Fetched.frame.injEq, Cut.frame.injEq]
    constructor
    · rintro ⟨rfl, rfl⟩; exact ⟨rfl, rfl, rfl⟩
    · rintro ⟨hk, hr, rfl⟩; exact ⟨Instr.eq_of_kind_raw hk hr, rfl⟩

/-- Settles O2: the default catalogue cuts the bytes of any frame back to its kind and operands. -/
theorem streamRoundTrip : Obligations.StreamRoundTrip := fun i rest hf =>
  fetch_eq_frame_iff.2 (cut_bytes (lookup_of_mem_catalogue (kind_mem_catalogue i)) i.raw_hasShape (lengthFits_iff.1 hf) rest)

/-- Settles O3: what the default catalogue cuts is the frame's bytes. -/
theorem streamDecodeIsExact : Obligations.StreamDecodeIsExact := fun _ _ _ h =>
  (eq_bytes_of_cut (fetch_eq_frame_iff.1 h)).imp_right lengthFits_iff.2

/-- Settles O1: each of the eight byte sequences is evaluated. -/
theorem registeredWordsDecode : Obligations.RegisteredWordsDecode := by
  unfold Obligations.RegisteredWordsDecode
  decide

/-! ### When the deframer is ready (R134) -/

theorem ready_iff_of_two {b0 b1 : Byte} {tail : List Byte} : ready cat (b0 :: b1 :: tail) = true ↔
    lookup cat (le16 b0 b1) = none ∨ ∃ k, lookup cat (le16 b0 b1) = some k ∧ 4 ≤ tail.length ∧
      (k.shape = .variableLen → 4 + (le16 (tail.getD 0 0) (tail.getD 1 0)).toNat ≤ tail.length) := by
  cases hl : lookup cat (le16 b0 b1) with
  | none => simp [ready, cut, hl]
  | some k =>
    match tail with
    | [] | [_] | [_, _] | [_, _, _] => simp [ready, cut, hl]
    | b2 :: b3 :: b4 :: b5 :: payload =>
      cases hs : k.shape with
      | fixed => simp [ready, cut, hl, hs]
      | variableLen =>
        by_cases hlen : (le16 b2 b3).toNat ≤ payload.length
        · simp [ready, cut, hl, hs, hlen]; omega
        · simp [ready, cut, hl, hs, hlen]; omega

theorem ready_eq_false_iff : ready cat B = false ↔ cut cat B = .wait := by
  simp [ready]

theorem fetch_eq_wait_of_not_ready (h : ready catalogue B = false) : fetch B = .wait := by
  rw [ready_eq_false_iff, Machine.cut_catalogue] at h
  split at h
  · assumption
  · cases h
  · cases h

namespace Machine

variable {s t : State}

theorem deframe_of_not_enabled (run : Instr → State → Host.Outcome State Fault Refusal)
    (h : s.conn = .closed ∨ fetch s.rx = .wait) : deframe run s = .next s := by
  obtain ⟨_, hc, hf, -⟩ | ⟨_, _, hc, hf, -⟩ | ⟨-, hd⟩ := deframe_cases run s
  · rcases h with h | h <;> simp [hc, hf] at h
  · rcases h with h | h <;> simp [hc, hf] at h
  · exact hd

/-- Settles O15: `ready` by the bytes there are, and a `Deframe` that is not enabled. -/
theorem deframerHoldsUntilReady : Obligations.DeframerHoldsUntilReady := by
  refine ⟨fun cat B => ?_, fun s h => ?_, fun s h => ?_⟩
  · match B with
    | [] | [_] => simp [ready, cut]
    | b0 :: b1 :: tail =>
      rw [ready_iff_of_two]
      simp only [List.length_cons, List.getD_cons_zero, List.getD_cons_succ]
      simp only [Nat.le_add_left, true_and]
      refine or_congr Iff.rfl (exists_congr fun k => and_congr Iff.rfl (and_congr (by omega) (imp_congr Iff.rfl (by omega))))
  · rw [step_offer, perform_deframe, deframe_of_not_enabled exec (.inr (fetch_eq_wait_of_not_ready h))]
  · rw [step_offer, perform_deframe, deframe_of_not_enabled exec (.inl h)]

/-- Settles O12: the `Deframe` event on a cut frame is the run of its instruction. -/
theorem stepRunsInstruction : Obligations.StepRunsInstruction := by
  intro s env i rest he hc hf
  have hc' : (s.setEnv env).conn = .opened := hc
  have hf' : fetch (s.setEnv env).rx = .frame i rest := hf
  rw [step_eq_perform, he, perform_deframe, deframe_of_frame exec hc' hf']

/-! ### What a `Deframe` step removes (R139) -/

/-- Running an instruction leaves the received bytes, or empties them when its write closes the connection. -/
theorem exec_rx {i : Instr} (h : exec i s = .next t) : t.rx = s.rx ∨ t.rx = [] := by
  obtain ⟨e, -, he⟩ | ⟨f, -, he⟩ := exec_cases i s <;> cases he.symm.trans h
  · exact .inl rfl
  · obtain ⟨p, hrun⟩ | hd := dispatch_run (ok := fun _ => True) (cfg := Config.cfg) (s := s) i.kind (Instr.effect i) f
      fun _ _ _ _ => trivial
    · rw [updateChannel_eq_setChan] at hrun
      exact hrun.rx
    · rw [hd, updateChannel_eq_setChan]
      exact .inl rfl

/-- Settles O17: a cut frame is the head of the stream, and so is the byte dropped for an unknown identifier. -/
theorem deframeRemovesPrefix : Obligations.DeframeRemovesPrefix := by
  intro s t h
  rw [step_offer, perform_deframe] at h
  obtain ⟨id, -, hf, hd⟩ | ⟨i, rest, -, hf, hd⟩ | ⟨-, hd⟩ := deframe_cases exec s <;> rw [hd] at h
  · cases h
    exact ⟨s.rx.take 1, by simp [← List.drop_one]⟩
  · have hrx : s.rx = encode i ++ rest := (streamDecodeIsExact _ _ _ hf).1
    obtain hr | hr := exec_rx h <;> rw [hr]
    · exact ⟨encode i, hrx⟩
    · exact ⟨s.rx, (List.append_nil _).symm⟩
  · cases h; exact ⟨[], rfl⟩

end Machine

/-! ### Well-formed instructions (R105, R127) -/

/-- `decode` of a frame's bytes makes the checks of its kind. -/
theorem decodeFrame_bytes (hl : lookup cat k.id = some k) (hs : raw.hasShape k.shape) (hf : raw.Fits) :
    decodeFrame cat (raw.bytes k.id) = checkRaw k raw := by
  cases raw with
  | fixed p1 p2 d s => exact decodeFrame_bytes_fixed hl hs p1 p2 d s
  | variableLen d s payload => exact decodeFrame_bytes_variable hl hs d s hf

theorem readAddresses_ok_iff {dest source : Byte} : (∃ a, readAddresses k dest source = .ok a) ↔
    dest.msb = (k.shape == .variableLen) ∧ (validate (dest &&& 0x7F)).isSome ∧ (validate source).isSome := by
  by_cases hm : dest.msb = (k.shape == .variableLen)
  · cases hd : validate (dest &&& 0x7F) with
    | none => simp [readAddresses_of_dest_invalid source hm hd]
    | some d =>
      cases hs : validate source with
      | none => simp [readAddresses_of_source_invalid hm hd hs]
      | some m => simp [readAddresses_of_valid hm hd hs, hm]
  · simp [readAddresses_of_marker_ne source hm, hm]

theorem widthError_eq_none_iff {n : Nat} :
    widthError k n = none ↔ ∀ fs, k.schema = .fields fs → n = schemaWidth fs := by
  refine ⟨fun h fs hk => ?_, widthError_eq_none_of_width⟩
  rcases Nat.lt_trichotomy n (schemaWidth fs) with hlt | heq | hgt
  · rw [widthError_of_lt hk hlt] at h; cases h
  · exact heq
  · rw [widthError_of_gt hk hgt] at h; cases h

theorem Except.exists_map_eq_ok {ε α β : Type} {x : Except ε α} {g : α → β} :
    (∃ b, x.map g = .ok b) ↔ ∃ a, x = .ok a := by
  cases x <;> simp [Except.map]

theorem checkRaw_fixed_ok_iff {p1 p2 dest source : Byte} : (∃ f, checkRaw k (.fixed p1 p2 dest source) = .ok f) ↔
    dest.msb = (k.shape == .variableLen) ∧ (validate (dest &&& 0x7F)).isSome ∧ (validate source).isSome := by
  rw [checkRaw_fixed_eq_map, Except.exists_map_eq_ok, readAddresses_ok_iff]

theorem checkRaw_variable_ok_iff {dest source : Byte} {payload : List Byte} :
    (∃ f, checkRaw k (.variableLen dest source payload) = .ok f) ↔
      (∀ fs, k.schema = .fields fs → payload.length = schemaWidth fs) ∧
        dest.msb = (k.shape == .variableLen) ∧ (validate (dest &&& 0x7F)).isSome ∧ (validate source).isSome := by
  rw [← widthError_eq_none_iff, ← readAddresses_ok_iff]
  cases hw : widthError k payload.length with
  | none => rw [checkRaw_variable_eq_map hw, Except.exists_map_eq_ok]; simp
  | some e => simp [checkRaw_variable_of_widthError hw]

/-- An instruction whose payload fits is well formed exactly when its meaning's checks pass. -/
theorem wellFormed_iff_check (hf : i.lengthFits = true) : i.wellFormed = true ↔ ∃ f, i.check = .ok f := by
  have hwf : i.wellFormed = true ↔ i.widthMatches = true ∧ i.destByte.msb = (i.kind.shape == .variableLen) ∧
      (validate (i.destByte &&& 0x7F)).isSome ∧ (validate i.sourceByte).isSome := by
    simp [Instr.wellFormed, hf, Instr.markerMatches, Instr.destValid, Instr.sourceValid, and_assoc]
  rw [hwf]
  unfold Instr.check Instr.widthMatches Instr.destByte Instr.sourceByte
  cases i.raw with
  | fixed p1 p2 d s => simp [checkRaw_fixed_ok_iff]
  | variableLen d s payload =>
    rw [checkRaw_variable_ok_iff]
    refine and_congr ?_ Iff.rfl
    cases i.kind.schema <;> simp

/-- Settles O10: `decode` of the encoding is the check that the meaning makes. -/
theorem wellFormedInstructionsDecode : Obligations.WellFormedInstructionsDecode := by
  intro i hf
  have hdec : decodeFrame catalogue (encode i) = i.check :=
    decodeFrame_bytes (lookup_of_mem_catalogue (kind_mem_catalogue i)) i.raw_hasShape (lengthFits_iff.1 hf)
  exact ⟨hdec, by rw [hdec]; exact wellFormed_iff_check hf⟩

end Sys2Proof
end

section
/-! PROOFS. The encoder (R121 to R125): its checks in their order, the layout and the length of what it answers, and the
payload as the fields' bytes in declared order (R98, R124, R129); and the thirteen module codes (R150 to R158). -/

namespace Sys2Proof

variable {cat : List Kind} {id : MsgId} {k : Kind} {dest source : Byte} {d m : ModuleAddress} {fields : FrameFields}
  {fs : List (FieldName × FieldType)} {vs : List (FieldName × FieldValue)}

/-! ### Payloads -/

theorem serFields_eq_flatten (fs : List (FieldName × FieldType)) (vs : List (FieldName × FieldValue)) :
    serFields fs vs = ((fs.zip vs).map fun e => e.1.2.ser e.2.2).flatten := by
  induction fs generalizing vs with
  | nil => rfl
  | cons f fs ih => cases vs with
    | nil => rfl
    | cons v vs => simp [serFields, ih]

theorem fits_read {ty : FieldType} {bs : List Byte} (h : bs.length = ty.width) : ty.fits (ty.read bs) = true := by
  have hlt := fromLe_lt bs
  rw [h] at hlt
  cases ty with
  | bytes n => exact beq_iff_eq.2 h
  | uint1 | uint2 | uint4 => exact decide_eq_true hlt

/-- The fields read from a payload of the schema's width: their names, that they fit, and that they are all of it. -/
theorem readFields_spec (fs : List (FieldName × FieldType)) {payload : List Byte} (h : payload.length = schemaWidth fs) :
    (readFields fs payload).map Prod.fst = fs.map Prod.fst ∧
      (∀ e ∈ fs.zip (readFields fs payload), e.1.2.fits e.2.2 = true) ∧ serFields fs (readFields fs payload) = payload := by
  induction fs generalizing payload with
  | nil =>
    rw [List.length_eq_zero_iff.1 h]
    exact ⟨rfl, List.forall_mem_nil _, rfl⟩
  | cons f fs ih =>
    obtain ⟨name, ty⟩ := f
    rw [schemaWidth] at h
    have hhead : (payload.take ty.width).length = ty.width := by rw [List.length_take]; omega
    have htail : (payload.drop ty.width).length = schemaWidth fs := by rw [List.length_drop]; omega
    obtain ⟨hnames, hfits, hser⟩ := ih htail
    refine ⟨by simp [readFields, hnames], ?_, ?_⟩
    · rw [readFields, List.zip_cons_cons, List.forall_mem_cons]
      exact ⟨fits_read hhead, hfits⟩
    · rw [readFields, serFields, ser_read hhead, hser, List.take_append_drop]

/-- Settles O9: writing fields that fit and reading them back, and reading a payload and writing it back. -/
theorem payloadFieldsInDeclaredOrder : Obligations.PayloadFieldsInDeclaredOrder := by
  refine ⟨fun fs vs hn hfits => ?_, fun fs payload h => ⟨_, rfl, readFields_spec fs h⟩⟩
  have hf : firstMisfit fs vs = none := (firstMisfit_eq_none_iff fs vs hn).2 hfits
  exact ⟨serFields_eq_flatten fs vs, length_serFields fs vs hn hf,
    congrArg FieldValues.record (readFields_serFields fs vs hn hf)⟩

/-! ### The layout of an encoded frame (R122 to R125) -/

theorem length_bytes_fixed (p1 p2 dest source : Byte) : ((RawFrame.fixed p1 p2 dest source).bytes id).length = 6 :=
  RawFrame.length_bytes id _

theorem length_bytes_variable (dest source : Byte) (payload : List Byte) :
    ((RawFrame.variableLen dest source payload).bytes id).length = 6 + payload.length :=
  RawFrame.length_bytes id _

/-- Settles O5: what `encode` answers for each shape, its operands taken from the schema checks that passed. -/
theorem encodedFrameLayout : Obligations.EncodedFrameLayout := by
  intro cat id dest source fields bs hcat h
  obtain ⟨k, d, hcheck⟩ := encodeCheck_of_encodeFrame h
  obtain ⟨m, hl, hd, hm, hne, hf⟩ := encodeCheck_of_ok hcheck
  obtain ⟨-, hkinds, -⟩ := catalogueWf_iff.1 hcat
  obtain ⟨hshape, hw, -⟩ := wf_spec (hkinds k (lookup_spec hl).1).1
  refine ⟨k, d, m, hl, hd, hm, hne, fun hs => ?_, fun hs => ?_⟩
  · obtain ⟨p1, p2, rfl⟩ := fieldsError_fixed2 (hshape.1 hs ▸ hf)
    rw [eq_code_of_validate hd, eq_code_of_validate hm, encodeFrame_eq_bytes_fixed hl hne hs (hshape.1 hs) hf] at h
    cases h
    exact ⟨p1, p2, rfl, by rw [eq_code_of_validate hm]; rfl, length_bytes_fixed _ _ _ _, msb_code d⟩
  · have hk : k.schema ≠ .fixed2 := fun hk => by simp [hshape.2 hk] at hs
    obtain ⟨hlen, -, hread⟩ := serialise_of_fieldsError hk hw hf
    rw [eq_code_of_validate hd, eq_code_of_validate hm, encodeFrame_eq_bytes_variable hl hne hs hf hlen] at h
    cases h
    refine ⟨serialise k.schema fields, by rw [eq_code_of_validate hm]; rfl, length_bytes_variable _ _ _, hlen,
      msb_code_or d, fun fs hfs => ?_, fun ho => ?_⟩
    · rw [hfs] at hf ⊢
      obtain ⟨vs, rfl, hn, hfit⟩ := fieldsError_fields hf
      exact ⟨length_serFields fs vs hn hfit, vs, rfl, rfl⟩
    · rw [ho] at hread ⊢; exact hread

/-! ### The checks of `encode` in their order (R121) -/

theorem encodeCheck_of_unregistered (hl : lookup cat id = none) :
    encodeCheck cat id dest source fields = .error (.schemaViolation (.unregisteredKind id)) := by
  simp only [encodeCheck, hl]

theorem encodeCheck_of_dest_invalid (hl : lookup cat id = some k) (hd : validate dest = none) :
    encodeCheck cat id dest source fields = .error (.invalidAddress dest) := by
  simp only [encodeCheck, hl, hd]

theorem encodeCheck_of_source_invalid (hl : lookup cat id = some k) (hd : validate dest = some d)
    (hm : validate source = none) : encodeCheck cat id dest source fields = .error (.invalidAddress source) := by
  simp only [encodeCheck, hl, hd, hm]

theorem encodeCheck_of_self (hl : lookup cat id = some k) (hd : validate dest = some d)
    (hm : validate source = some d) : encodeCheck cat id dest source fields = .error (.selfAddressed dest) := by
  simp only [encodeCheck, hl, hd, hm, if_pos]

/-- Past the addresses, the schema's check decides. -/
theorem encodeCheck_of_addresses (hl : lookup cat id = some k) (hd : validate dest = some d)
    (hm : validate source = some m) (hne : d ≠ m) :
    encodeCheck cat id dest source fields =
      (fieldsError k.schema fields).elim (.ok (k, d)) fun r => .error (.schemaViolation r) := by
  simp only [encodeCheck, hl, hd, hm, if_neg hne]
  cases fieldsError k.schema fields <;> rfl

theorem fieldsError_fixed2_of_no_pair (h : ∀ p1 p2, fields ≠ .params [p1, p2]) :
    fieldsError .fixed2 fields = some .fieldCount := by
  match fields, h with
  | .params [p1, p2], h => exact absurd rfl (h p1 p2)
  | .params [], _ | .params [_], _ | .params (_ :: _ :: _ :: _), _ | .values _, _ => rfl

theorem fieldsError_pair_of_gt {p1 p2 : Nat} (h : 0xFF < p1 ∨ 0xFF < p2) :
    fieldsError .fixed2 (.params [p1, p2]) = some (.fieldWidth none) := if_pos h

theorem fieldsError_pair_of_le {p1 p2 : Nat} (h1 : p1 ≤ 0xFF) (h2 : p2 ≤ 0xFF) :
    fieldsError .fixed2 (.params [p1, p2]) = none := if_neg (by omega)

theorem fieldsError_fields_of_names
    (h : ∀ vs, fields = .values (.record vs) → vs.map Prod.fst ≠ fs.map Prod.fst) :
    fieldsError (.fields fs) fields = some .fieldCount := by
  match fields, h with
  | .values (.record vs), h => exact if_pos (h vs rfl)
  | .values (.raw _), _ | .params _, _ => rfl

theorem fieldsError_record (hn : vs.map Prod.fst = fs.map Prod.fst) :
    fieldsError (.fields fs) (.values (.record vs)) = (firstMisfit fs vs).map fun name => .fieldWidth (some name) :=
  if_neg (not_not_intro hn)

/-- The first value that does not fit is the one named. -/
theorem firstMisfit_of_zip {before after : List ((FieldName × FieldType) × (FieldName × FieldValue))}
    {name : FieldName} {ty : FieldType} {v : FieldValue}
    (h : fs.zip vs = before ++ ((name, ty), (name, v)) :: after)
    (hbefore : ∀ e ∈ before, e.1.2.fits e.2.2 = true) (hv : ty.fits v = false) : firstMisfit fs vs = some name := by
  induction before generalizing fs vs with
  | nil =>
    obtain ⟨fs', vs', rfl, rfl⟩ : ∃ fs' vs', fs = (name, ty) :: fs' ∧ vs = (name, v) :: vs' := by
      cases fs <;> cases vs <;> simp_all
    simp [firstMisfit, hv]
  | cons e before ih =>
    obtain ⟨fs', vs', rfl, rfl, h'⟩ : ∃ fs' vs', fs = e.1 :: fs' ∧ vs = e.2 :: vs' ∧
        fs'.zip vs' = before ++ ((name, ty), (name, v)) :: after := by
      cases fs <;> cases vs <;> simp_all
      rw [← h.1]; exact ⟨rfl, rfl⟩
    rw [List.forall_mem_cons] at hbefore
    simp only [firstMisfit, hbefore.1, if_true]
    exact ih h' hbefore.2

theorem fieldsError_opaque_of_gt {bs : List Byte} (h : 65535 < bs.length) :
    fieldsError .opaqueBytes (.values (.raw bs)) = some .length := if_pos h

theorem fieldsError_opaque_of_le {bs : List Byte} (h : bs.length ≤ 65535) :
    fieldsError .opaqueBytes (.values (.raw bs)) = none := if_neg (Nat.not_lt.2 h)

/-- Settles O6: the addresses one by one, and past them what the schema's check answers for each form of operands. -/
theorem encodeChecksInOrder : Obligations.EncodeChecksInOrder := by
  refine ⟨fun _ _ _ _ _ => encodeCheck_of_unregistered, fun _ _ _ _ _ _ => encodeCheck_of_dest_invalid,
    fun _ _ _ _ _ _ _ => encodeCheck_of_source_invalid, fun _ _ _ _ _ _ _ => encodeCheck_of_self, ?_⟩
  intro cat id dest source fields k d m hl hd hm hne
  rw [encodeCheck_of_addresses hl hd hm hne]
  refine ⟨?noPair, ?pairOver, ?pairFits, ?names, ?misfit, ?fits, ?opaqueOver, ?opaqueFits, ?anyError, ?noError⟩
  case noPair => rintro hk h; rw [hk, fieldsError_fixed2_of_no_pair h]; rfl
  case pairOver => rintro p1 p2 hk rfl h; rw [hk, fieldsError_pair_of_gt h]; rfl
  case pairFits => rintro p1 p2 hk rfl h1 h2; rw [hk, fieldsError_pair_of_le h1 h2]; rfl
  case names => rintro fs hk h; rw [hk, fieldsError_fields_of_names h]; rfl
  case misfit =>
    rintro fs vs before name ty v after hk rfl hn hz hbefore hv
    rw [hk, fieldsError_record hn, firstMisfit_of_zip hz hbefore hv]; rfl
  case fits =>
    rintro fs vs hk rfl hn hfits
    rw [hk, fieldsError_record hn, (firstMisfit_eq_none_iff fs vs hn).2 hfits]; rfl
  case opaqueOver => rintro bs hk rfl h; rw [hk, fieldsError_opaque_of_gt h]; rfl
  case opaqueFits => rintro bs hk rfl h; rw [hk, fieldsError_opaque_of_le h]; rfl
  case anyError => rintro r h; rw [h]; rfl
  case noError => rintro h; rw [h]; rfl

/-! ### The module codes (R150 to R158) -/

theorem stripDest_formatDest (a : ModuleAddress) (sh : Shape) : stripDest (formatDest a sh) = some (a, sh) := by
  cases sh
  · exact stripDest_code a
  · exact stripDest_code_or a

theorem validate_isSome_iff : ∀ b : Byte, (validate b).isSome = true ↔
    b = 0x01 ∨ b = 0x11 ∨ (0x21 ≤ b.toNat ∧ b.toNat ≤ 0x2A) ∨ b = 0x50 := by decide

/-- Settles O7: the laws for every module, and the bytes counted one by one. -/
theorem moduleCodesAreThirteen : Obligations.ModuleCodesAreThirteen :=
  ⟨validate_code, stripDest_formatDest, validate_isSome_iff, rfl, rfl, rfl, fun n => validate_code (.bay n),
    by decide +kernel, by decide +kernel⟩

end Sys2Proof
end

section
/-! PROOFS. Construction (R10, R14, R451): what a well-formed catalogue is, clause by clause, and the defaults (R346). -/

namespace Sys2Proof

open Machine

variable {cat : List Kind} {k : Kind}

theorem construct_eq_some_iff {cfg : Cfg} {b : Block} :
    construct cfg = some b ↔ catalogueWf cfg.catalogue = true ∧ b = ⟨cfg, State.reset⟩ := by
  by_cases h : catalogueWf cfg.catalogue = true
  · rw [construct_of_catalogueWf h]; simp [h, eq_comm]
  · simp [construct, h]

theorem legal_iff {schema : Schema} :
    schema.legal = true ↔ ∀ fs, schema = .fields fs → ∀ name n, (name, FieldType.bytes n) ∈ fs → 1 ≤ n := by
  cases schema with
  | fixed2 | opaqueBytes => simp [Schema.legal]
  | fields fs =>
    simp only [Schema.legal, List.all_eq_true, Schema.fields.injEq, forall_eq', Prod.forall]
    refine ⟨fun h name n hmem => of_decide_eq_true (h name _ hmem), fun h name ty hmem => ?_⟩
    cases ty with
    | bytes n => exact decide_eq_true (h name n hmem)
    | uint1 | uint2 | uint4 => rfl

/-- What a well-formed kind is by itself, as an equivalence. -/
theorem Kind.wf_iff : k.wf = true ↔ (k.shape = .fixed ↔ k.schema = .fixed2) ∧ k.schema.width ≤ maxPayload ∧
    k.schema.legal = true ∧ (k.responses ≠ [] ↔ k.role = .request) ∧
    (k.role = .request ∨ k.role = .set → ∃ fam, k.family = some fam) := by
  have hbeq : ∀ a b : Bool, (a == b) = true ↔ (a = true ↔ b = true) := by decide
  have hfamily : (∃ fam, k.family = some fam) ↔ k.family.isSome = true := Option.isSome_iff_exists.symm
  simp only [Kind.wf, Bool.and_eq_true, hbeq, beq_iff_eq, bne_iff_ne, decide_eq_true_eq, Bool.or_eq_true,
    Bool.not_eq_true', and_assoc, hfamily]
  refine and_congr Iff.rfl (and_congr Iff.rfl (and_congr Iff.rfl (and_congr Iff.rfl ?_)))
  rw [← Bool.not_eq_true, Bool.or_eq_true, beq_iff_eq, beq_iff_eq, imp_iff_not_or]

/-- What a kind's responses are asked to be. -/
theorem Kind.responsesWf_iff : k.responsesWf cat = true ↔
    (∀ r ∈ k.responses, ∃ k' ∈ cat, k'.id = r ∧ k'.role = .response ∧ k'.dir = .deviceToHost ∧ k'.family = k.family) ∧
      ∀ k' ∈ cat, k'.family ≠ k.family → ∀ r ∈ k.responses, r ∉ k'.responses := by
  simp only [Kind.responsesWf, Bool.and_eq_true, List.all_eq_true, List.any_eq_true, beq_iff_eq, Bool.or_eq_true,
    Bool.not_eq_true', List.contains_eq_mem, decide_eq_false_iff_not, and_assoc]
  exact and_congr Iff.rfl (forall_congr' fun k' => imp_congr Iff.rfl or_iff_not_imp_left)

theorem lookup_eq_some_iff (hn : (cat.map Kind.id).Nodup) {id : MsgId} :
    lookup cat id = some k ↔ k ∈ cat ∧ k.id = id :=
  ⟨lookup_spec, fun ⟨hmem, hid⟩ => hid ▸ lookup_of_mem hn hmem⟩

/-- In a catalogue with distinct identifiers, the kind of a name that has an identifier is the kind of that identifier. -/
theorem fixesKind_iff_lookup (hn : (cat.map Kind.id).Nodup) {id : MsgId} {name : KindName} {p : Kind → Bool} :
    fixesKind cat id name p = true ↔ ∃ k, lookup cat id = some k ∧ named cat name = some k ∧ p k = true := by
  rw [fixesKind_iff]
  refine exists_congr fun k => ⟨fun ⟨h1, h2, h3⟩ => ⟨?_, h1, h3⟩, fun ⟨h1, h2, h3⟩ => ⟨h2, (lookup_spec h1).2, h3⟩⟩
  exact (lookup_eq_some_iff hn).2 ⟨(named_spec h1).1, h2⟩

/-- The five kinds of R300, in a catalogue with distinct identifiers. -/
theorem keepsFixedKinds_iff (hn : (cat.map Kind.id).Nodup) : keepsFixedKinds cat = true ↔
    (∃ k, lookup cat 0x0223 = some k ∧ named cat .modIdentify = some k ∧ k.shape = .fixed) ∧
    (∃ k, lookup cat 0x0220 = some k ∧ named cat .modSetChanenablestate = some k) ∧
    (∃ k, lookup cat 0x0221 = some k ∧ named cat .modReqChanenablestate = some k ∧ 0x0212 ∈ k.responses) ∧
    (∃ k, lookup cat 0x0212 = some k ∧ named cat .modGetChanenablestate = some k ∧ k.role = .response) ∧
    (∃ k, lookup cat 0x0464 = some k ∧ named cat .motMoveCompleted = some k ∧ k.role = .report ∧
      k.dir = .deviceToHost) := by
  simp only [keepsFixedKinds, Bool.and_eq_true, fixesKind_iff_lookup hn, beq_iff_eq, List.contains_eq_mem,
    decide_eq_true_eq, and_true, and_assoc]

/-- A channel that the default `CHAN_IDENT` does not list has no identifier. -/
theorem chanIdent_withDefaults_of_out (p : Params) {ch : Channel} (h : ch < 1 ∨ 4 < ch) :
    p.withDefaults.chanIdent ch = none := by
  have hne : ∀ e ∈ p.withDefaults.chanIdents, ¬(e.1 == ch) = true := by
    simp only [Params.withDefaults, List.forall_mem_cons, beq_iff_eq]
    refine ⟨?_, ?_, ?_, ?_, fun _ he => nomatch he⟩ <;> rintro rfl <;> simp at h
  rw [Cfg.chanIdent, List.find?_eq_none.2 hne]; rfl

/-- Settles O11: each clause of the two checks as an equivalence, and the defaults by evaluation. -/
theorem catalogueIsWellFormed : Obligations.CatalogueIsWellFormed := by
  refine ⟨fun _ _ => construct_eq_some_iff, fun cat => ?_, by decide +kernel, catalogueWf_catalogue, fun p => ?_⟩
  · rw [catalogueWf_iff]
    refine and_congr_right fun hn => and_congr (forall₂_congr fun k _ => ?_) (keepsFixedKinds_iff hn)
    rw [Kind.wf_iff, Kind.responsesWf_iff, legal_iff]
    simp only [and_assoc, maxPayload]
  · exact ⟨construct_of_catalogueWf catalogueWf_catalogue, rfl, rfl, rfl, rfl, rfl, rfl, rfl, rfl,
      fun _ => chanIdent_withDefaults_of_out p, rfl, rfl, rfl, rfl, rfl, rfl⟩

/-! ### The block of the default configuration -/

namespace Machine

variable {cfg : Cfg} {s : State}

theorem deframeIn_of_frame {k : Kind} {raw : RawFrame} {rest : List Byte} (hc : s.conn = .opened)
    (hf : cut cfg.catalogue s.rx = .frame k raw rest) :
    deframeIn cfg s = receiveFrame cfg k (kindEffect cfg k) raw (s.setRx rest) := by
  unfold deframeIn; rw [hc, hf]

theorem stepIn_of_drawEvent {e : Event} {env : Env} (h : s.env.drawEvent = (e, env)) :
    stepIn cfg s = perform cfg (deframeIn cfg) e (s.setEnv env) := by
  unfold stepIn; rw [h]

theorem kindEffect_of_hostToDevice {k : Kind} (h : k.dir = .hostToDevice) : kindEffect cfg k = .nothing := by
  unfold kindEffect; rw [h]

theorem process_of_empty (h : s.cmdq = []) : process cfg s = s := by
  unfold process; rw [h]

/-- Settles O13: the default block, `Deframe` and `Process` under any configuration, and frames of opaque kinds. -/
theorem stepIsTheDefaultBlock : Obligations.StepIsTheDefaultBlock := by
  refine ⟨step_eq_stepIn, ⟨Config.params, rfl⟩, fun cfg s env k raw rest he hc hf => ?deframe,
    fun _ _ => kindEffect_of_hostToDevice, fun cfg s env he => ⟨?process, ?processStep, fun hq => ?empty⟩,
    fun k dest source d m payload hs hk hd hm => ?opaqueFrame⟩
  case deframe =>
    rw [stepIn_of_drawEvent he, perform_deframe]
    exact deframeIn_of_frame (s := s.setEnv env) hc hf
  case process => rw [stepIn_of_drawEvent he, perform_process]
  case processStep => rw [step_eq_stepIn, stepIn_of_drawEvent he, perform_process]
  case empty => rw [stepIn_of_drawEvent he, perform_process, process_of_empty (s := s.setEnv env) hq]
  case opaqueFrame =>
    have hw : widthError k payload.length = none := widthError_eq_none_iff.2 fun fs h => by rw [hk] at h; cases h
    rw [checkRaw_variable hs hw hd hm, hk]; rfl

end Machine

end Sys2Proof
end

section
/-! PROOFS. The meanings of the 44 instructions (R176 to R180, R271 to R286): the frame that an instruction's bytes decode
to, the change of the channel file that its kind makes, and the port that the frame goes to. Each statement about one kind
is an application of the lemmas about all of them. -/

namespace Sys2Proof

variable {i : Instr} {f : Frame} {d m : ModuleAddress} {dest source p1 p2 : Byte} {payload : List Byte}
  {fs : List (FieldName × FieldType)} {vs : List (FieldName × FieldValue)}

/-! ### The frames that instructions decode to -/

theorem check_of_fixed (hr : i.raw = .fixed p1 p2 dest source) (hd : validate dest = some d)
    (hm : validate source = some m) :
    i.check = .ok { id := i.kind.id, dest := d, source := m, body := .fixed p1 p2 } := by
  have hs : i.kind.shape = .fixed := by have h := i.raw_hasShape; rw [hr] at h; exact h
  rw [Instr.check, hr, checkRaw_fixed hs hd hm]

/-- The bytes `payload` hold the values `vs` of the fields `fs`. -/
structure Holds (fs : List (FieldName × FieldType)) (vs : List (FieldName × FieldValue)) (payload : List Byte) :
    Prop where
  names : vs.map Prod.fst = fs.map Prod.fst
  fit : firstMisfit fs vs = none
  bytes : payload = serFields fs vs

theorem check_of_holds (h : Holds fs vs payload) (hk : i.kind.schema = .fields fs)
    (hr : i.raw = .variableLen (dest ||| 0x80) source payload) (hd : validate dest = some d)
    (hm : validate source = some m) :
    i.check = .ok { id := i.kind.id, dest := d, source := m,
                    body := .variableLen (BitVec.ofNat 16 (schemaWidth fs)) (.record vs) } := by
  have hs : i.kind.shape = .variableLen := by have h := i.raw_hasShape; rw [hr] at h; exact h
  have hlen : payload.length = schemaWidth fs := h.bytes ▸ length_serFields fs vs h.names h.fit
  rw [Instr.check, hr, checkRaw_variable hs (widthError_eq_none hk hlen) hd hm, hlen, hk, readPayload, h.bytes,
    readFields_serFields fs vs h.names h.fit]

theorem id_of_check (h : i.check = .ok f) : f.id = i.kind.id := by
  unfold Instr.check at h
  cases hr : i.raw with
  | fixed p1 p2 dest source =>
    rw [hr, checkRaw_fixed_eq_map] at h
    cases ha : readAddresses i.kind dest source <;> rw [ha] at h <;> cases h
    rfl
  | variableLen dest source payload =>
    rw [hr] at h
    cases hw : widthError i.kind payload.length with
    | some e => rw [checkRaw_variable_of_widthError hw] at h; cases h
    | none =>
      rw [checkRaw_variable_eq_map hw] at h
      cases ha : readAddresses i.kind dest source <;> rw [ha] at h <;> cases h
      rfl

/-! The payloads of the field schemas of the default catalogue, field by field. -/

theorem Holds.nil : Holds [] [] [] := ⟨rfl, rfl, rfl⟩

theorem Holds.cons {name : FieldName} {ty : FieldType} {v : FieldValue} (hv : ty.fits v = true)
    (h : Holds fs vs payload) : Holds ((name, ty) :: fs) ((name, v) :: vs) (ty.ser v ++ payload) :=
  ⟨by simp [h.names], by simp [firstMisfit, hv, h.fit], by rw [h.bytes]; rfl⟩

theorem Holds.uint2 {name : FieldName} {v : Nat} (h : Holds fs vs payload) (hv : v < 2 ^ 16) :
    Holds ((name, .uint2) :: fs) ((name, .uint v) :: vs) (bytesLe v 2 ++ payload) := h.cons (decide_eq_true hv)

theorem Holds.uint4 {name : FieldName} {v : Nat} (h : Holds fs vs payload) (hv : v < 2 ^ 32) :
    Holds ((name, .uint4) :: fs) ((name, .uint v) :: vs) (bytesLe v 4 ++ payload) := h.cons (decide_eq_true hv)

theorem Holds.raw {name : FieldName} {n : Nat} {bs : List Byte} (h : Holds fs vs payload) (hbs : bs.length = n) :
    Holds ((name, .bytes n) :: fs) ((name, .bytes bs) :: vs) (bs ++ payload) := h.cons (beq_iff_eq.2 hbs)

theorem holds_vel {v minVel accn maxVel : Nat} (h0 : v < 2 ^ 16) (h1 : minVel < 2 ^ 32) (h2 : accn < 2 ^ 32)
    (h3 : maxVel < 2 ^ 32) : Holds schemaVel
      [(.chanIdent, .uint v), (.minVel, .uint minVel), (.accn, .uint accn), (.maxVel, .uint maxVel)]
      (bytesLe v 2 ++ bytesLe minVel 4 ++ bytesLe accn 4 ++ bytesLe maxVel 4) := by
  simpa [schemaVel] using (((Holds.nil.uint4 h3).uint4 h2).uint4 h1).uint2 h0

theorem holds_jog {v jogMode jogStepSize jogMinVel jogAccn jogMaxVel stopMode : Nat} (h0 : v < 2 ^ 16)
    (h1 : jogMode < 2 ^ 16) (h2 : jogStepSize < 2 ^ 32) (h3 : jogMinVel < 2 ^ 32) (h4 : jogAccn < 2 ^ 32)
    (h5 : jogMaxVel < 2 ^ 32) (h6 : stopMode < 2 ^ 16) : Holds schemaJog
      [(.chanIdent, .uint v), (.jogMode, .uint jogMode), (.jogStepSize, .uint jogStepSize),
       (.jogMinVel, .uint jogMinVel), (.jogAccn, .uint jogAccn), (.jogMaxVel, .uint jogMaxVel),
       (.stopMode, .uint stopMode)]
      (bytesLe v 2 ++ bytesLe jogMode 2 ++ bytesLe jogStepSize 4 ++ bytesLe jogMinVel 4 ++ bytesLe jogAccn 4 ++
        bytesLe jogMaxVel 4 ++ bytesLe stopMode 2) := by
  simpa [schemaJog] using ((((((Holds.nil.uint2 h6).uint4 h5).uint4 h4).uint4 h3).uint4 h2).uint2 h1).uint2 h0

theorem holds_limSwitch {v cwHardLimit ccwHardLimit cwSoftLimit ccwSoftLimit limitMode : Nat} (h0 : v < 2 ^ 16)
    (h1 : cwHardLimit < 2 ^ 16) (h2 : ccwHardLimit < 2 ^ 16) (h3 : cwSoftLimit < 2 ^ 32) (h4 : ccwSoftLimit < 2 ^ 32)
    (h5 : limitMode < 2 ^ 16) : Holds schemaLimSwitch
      [(.chanIdent, .uint v), (.cwHardLimit, .uint cwHardLimit), (.ccwHardLimit, .uint ccwHardLimit),
       (.cwSoftLimit, .uint cwSoftLimit), (.ccwSoftLimit, .uint ccwSoftLimit), (.limitMode, .uint limitMode)]
      (bytesLe v 2 ++ bytesLe cwHardLimit 2 ++ bytesLe ccwHardLimit 2 ++ bytesLe cwSoftLimit 4 ++
        bytesLe ccwSoftLimit 4 ++ bytesLe limitMode 2) := by
  simpa [schemaLimSwitch] using (((((Holds.nil.uint2 h5).uint4 h4).uint4 h3).uint2 h2).uint2 h1).uint2 h0

theorem holds_home {v homeDir limitSwitch homeVelocity offsetDistance : Nat} (h0 : v < 2 ^ 16) (h1 : homeDir < 2 ^ 16)
    (h2 : limitSwitch < 2 ^ 16) (h3 : homeVelocity < 2 ^ 32) (h4 : offsetDistance < 2 ^ 32) : Holds schemaHome
      [(.chanIdent, .uint v), (.homeDir, .uint homeDir), (.limitSwitch, .uint limitSwitch),
       (.homeVelocity, .uint homeVelocity), (.offsetDistance, .uint offsetDistance)]
      (bytesLe v 2 ++ bytesLe homeDir 2 ++ bytesLe limitSwitch 2 ++ bytesLe homeVelocity 4 ++
        bytesLe offsetDistance 4) := by
  simpa [schemaHome] using ((((Holds.nil.uint4 h4).uint4 h3).uint2 h2).uint2 h1).uint2 h0

theorem holds_moveRel {v relativeDistance : Nat} (h0 : v < 2 ^ 16) (h1 : relativeDistance < 2 ^ 32) :
    Holds schemaMoveRel [(.chanIdent, .uint v), (.relativeDistance, .uint relativeDistance)]
      (bytesLe v 2 ++ bytesLe relativeDistance 4) := by
  simpa [schemaMoveRel] using (Holds.nil.uint4 h1).uint2 h0

theorem holds_moveAbs {v absolutePosition : Nat} (h0 : v < 2 ^ 16) (h1 : absolutePosition < 2 ^ 32) :
    Holds schemaMoveAbs [(.chanIdent, .uint v), (.absolutePosition, .uint absolutePosition)]
      (bytesLe v 2 ++ bytesLe absolutePosition 4) := by
  simpa [schemaMoveAbs] using (Holds.nil.uint4 h1).uint2 h0

theorem holds_adc {a b : Nat} (h0 : a < 2 ^ 16) (h1 : b < 2 ^ 16) :
    Holds schemaAdc [(.adcInput1, .uint a), (.adcInput2, .uint b)] (bytesLe a 2 ++ bytesLe b 2) := by
  simpa [schemaAdc] using (Holds.nil.uint2 h1).uint2 h0

theorem holds_status {v position encCount statusBits : Nat} (h0 : v < 2 ^ 16) (h1 : position < 2 ^ 32)
    (h2 : encCount < 2 ^ 32) (h3 : statusBits < 2 ^ 32) : Holds schemaStatus
      [(.chanIdent, .uint v), (.position, .uint position), (.encCount, .uint encCount), (.statusBits, .uint statusBits)]
      (bytesLe v 2 ++ bytesLe position 4 ++ bytesLe encCount 4 ++ bytesLe statusBits 4) := by
  simpa [schemaStatus] using (((Holds.nil.uint4 h3).uint4 h2).uint4 h1).uint2 h0

theorem holds_richResponse {msgIdent code : Nat} {notes : List Byte} (h0 : msgIdent < 2 ^ 16) (h1 : code < 2 ^ 16)
    (h2 : notes.length = 64) : Holds schemaRichResponse
      [(.msgIdent, .uint msgIdent), (.code, .uint code), (.notes, .bytes notes)]
      (bytesLe msgIdent 2 ++ bytesLe code 2 ++ notes) := by
  simpa [schemaRichResponse] using ((Holds.nil.raw h2).uint2 h1).uint2 h0

theorem holds_hwInfo {serial hwType hwVer modState numCh : Nat} {model fw notes empty : List Byte}
    (h0 : serial < 2 ^ 32) (h1 : model.length = 8) (h2 : hwType < 2 ^ 16) (h3 : fw.length = 4) (h4 : notes.length = 48)
    (h5 : empty.length = 12) (h6 : hwVer < 2 ^ 16) (h7 : modState < 2 ^ 16) (h8 : numCh < 2 ^ 16) : Holds schemaHwInfo
      [(.serial, .uint serial), (.model, .bytes model), (.hwType, .uint hwType), (.fw, .bytes fw),
       (.notes, .bytes notes), (.empty, .bytes empty), (.hwVer, .uint hwVer), (.modState, .uint modState),
       (.numCh, .uint numCh)]
      (bytesLe serial 4 ++ model ++ bytesLe hwType 2 ++ fw ++ notes ++ empty ++ bytesLe hwVer 2 ++
        bytesLe modState 2 ++ bytesLe numCh 2) := by
  simpa [schemaHwInfo] using
    ((((((((Holds.nil.uint2 h8).uint2 h7).uint2 h6).raw h5).raw h4).raw h3).uint2 h2).raw h1).uint4 h0

namespace Machine

variable {s t : State} {k : Kind} {p : Option Pending} {g : ChannelState → ChannelState} {v : Nat}
  {changes : State → Prop}

/-! ### Whether a frame answers a pending entry (R176 to R179) -/

/-- Only responses of a device answer an entry that agrees with its operation. -/
theorem unsolicited_of_role (hp : ∀ e ∈ s.pending, e.2.Agrees) (hc : i.check = .ok f) (hrole : i.kind.role ≠ .response) :
    s.Unsolicited f := by
  rintro e he ⟨hid, -⟩
  obtain ⟨-, hkinds, -⟩ := catalogueWf_iff.1 catalogueWf_catalogue
  have hmem : (e.2.op.row Config.cfg).kind ∈ catalogue := by
    rw [row_kind, kindNamed_of_catalogue rfl]
    exact standard_mem_catalogue _
  rw [(hp e he).respIds, id_of_check hc] at hid
  obtain ⟨k', hk', hid', hrole', -⟩ := (Kind.responsesWf_iff.1 (hkinds _ hmem).2).1 _ hid
  have hl := lookup_of_mem_catalogue hk'
  rw [hid', lookup_of_mem_catalogue (kind_mem_catalogue i)] at hl
  exact hrole (Option.some.inj hl ▸ hrole')

/-! ### Where a frame goes -/

theorem exec_of_check (hc : i.check = .ok f) (s : State) :
    exec i s = .next (dispatch Config.cfg i.kind (Instr.effect i) f s) := by
  rw [exec_eq_receiveFrame, receiveFrame_of_ok hc]

/-- An unsolicited frame is emitted, after the change of its kind to the channel file. -/
theorem notifies_of_unsolicited (hc : i.check = .ok f) (hu : s.Unsolicited f)
    (h : ∀ t, t.chan = (updateChannel Config.cfg i.kind (Instr.effect i) f none s).chan → changes t) :
    Notifies i s f changes := by
  refine ⟨_, (exec_of_check hc s).trans (congrArg _ (dispatch_of_unsolicited hu)), ?_, h _ rfl⟩
  rw [updateChannel_eq_setChan]; rfl

/-- A report or a frame of the Host's is emitted, whatever is pending. -/
theorem notifies_of_role (hp : ∀ e ∈ s.pending, e.2.Agrees) (hc : i.check = .ok f) (hrole : i.kind.role ≠ .response)
    (h : ∀ t, t.chan = (updateChannel Config.cfg i.kind (Instr.effect i) f none s).chan → changes t) :
    Notifies i s f changes :=
  notifies_of_unsolicited hc (unsolicited_of_role hp hc hrole) h

/-- A response is emitted, or ends the entry it answers. -/
theorem delivers_of_check {changes : Option Pending → State → Prop} (hr : FMap.Rising id s.pending)
    (hc : i.check = .ok f)
    (h : ∀ p t, t.chan = (updateChannel Config.cfg i.kind (Instr.effect i) f p s).chan → changes p t) :
    Delivers i s f changes := by
  refine ⟨fun hu => notifies_of_unsolicited hc hu (h none), fun tag p ha => ?_⟩
  refine ⟨updateChannel Config.cfg i.kind (Instr.effect i) f (some p) s, ?_, updateChannel_eq_setChan _ _ _ _ _,
    h (some p) _ rfl, fun hw => ?_⟩
  · rw [exec_of_check hc, dispatch_of_answers hr ha]
  · rw [updateChannel_eq_setChan]
    exact finish_of_nothing_waiting tag p _ hw

/-! ### The changes of the channel file -/

/-- The effect of a report on the one channel that an identifier in the frame names. -/
theorem changesNamed_of_perChannel {g : Frame → ChannelState → ChannelState} {g' : ChannelState → ChannelState}
    (hch : channelOf Config.cfg k f p = chanOfIdent Config.cfg v) (hg : g f = g')
    (ht : t.chan = (updateChannel Config.cfg k (.perChannel g) f p s).chan) : s.ChangesNamed t f.source v g' := by
  have hof : ∀ m ch, t.chanOf m ch = (updateChannel Config.cfg k (.perChannel g) f p s).chanOf m ch := fun m ch => by
    rw [State.chanOf, ht]; rfl
  refine ⟨fun ch hn => ?_, fun hn => ?_⟩
  · have hch' : channelOf Config.cfg k f p = some ch := hch.trans (chanOfIdent_eq_some_iff.2 hn)
    constructor
    · rw [hof, chanOf_updateChannel_perChannel hch', if_pos ⟨rfl, rfl⟩, hg]
    · intro m' ch' hne
      rw [hof, chanOf_updateChannel_perChannel hch', if_neg]
      rintro ⟨rfl, rfl⟩
      simp at hne
  · rw [ht, updateChannel_perChannel_of_none (hch.trans (chanOfIdent_eq_none hn))]

theorem changesModule_of_moduleWide (hs : ChanFile.wf s.chan) (hinit : g ChannelState.init = ChannelState.init)
    (ht : t.chan = (updateChannel Config.cfg k (.moduleWide g) f p s).chan) : s.ChangesModule t f.source g := by
  intro m' ch
  rw [State.chanOf, ht]
  exact chanOf_updateChannel_moduleWide hs hinit m' ch

/-- The channel that the first field of a payload names. -/
theorem channelOf_chanIdent {len : BitVec 16} {id : MsgId} (hk : k.chanField = .field .chanIdent) :
    channelOf Config.cfg k { id := id, dest := d, source := m,
                             body := .variableLen len (.record ((.chanIdent, .uint v) :: vs)) } p =
      chanOfIdent Config.cfg v := by
  simp [channelOf, hk, Frame.fields, FieldValues.number]

theorem channelOf_param1 {id : MsgId} (hk : k.chanField = .param1) :
    channelOf Config.cfg k { id := id, dest := d, source := m, body := .fixed p1 p2 } p =
      chanOfIdent Config.cfg p1.toNat := by
  simp [channelOf, hk]

theorem ChannelState.onHomed_eq :
    ChannelState.onHomed = fun c => { c with life := if c.life = .homing then .homed else c.life } := by
  funext c; unfold ChannelState.onHomed; split <;> rfl

theorem ChannelState.onCompleted_eq : ChannelState.onCompleted = fun c =>
    { c with life := if c.life = .moving ∨ c.life = .jogging then .completed else c.life } := by
  funext c; unfold ChannelState.onCompleted; split <;> rfl

theorem ChannelState.onStopped_eq : ChannelState.onStopped = fun c =>
    { c with life := if c.life = .moving ∨ c.life = .jogging ∨ c.life = .homing then .stopped else c.life } := by
  funext c; unfold ChannelState.onStopped; split <;> rfl

theorem ChannelState.onErrorReport_eq :
    ChannelState.onErrorReport = fun c => { c with life := if c.life = .homing then .unknown else c.life } := by
  funext c; unfold ChannelState.onErrorReport; split <;> rfl

/-! ### The kinds that the Host sends (R179, R286) -/

theorem role_of_hostToDevice : ∀ k ∈ catalogue, k.dir = .hostToDevice → k.role ≠ .response := by decide +kernel

/-- A frame of a kind of the Host's is emitted, and nothing else changes. -/
theorem notifies_of_hostToDevice (hp : ∀ e ∈ s.pending, e.2.Agrees) (hdir : i.kind.dir = .hostToDevice)
    (hc : i.check = .ok f) : Notifies i s f (·.chan = s.chan) := by
  refine notifies_of_role hp hc (role_of_hostToDevice _ (kind_mem_catalogue i) hdir) fun t ht => ht.trans ?_
  rw [Instr.effect, kindEffect_of_hostToDevice hdir]; rfl

/-- Settles O19: each of the 21 kinds is one from the Host to a device. -/
theorem hostFixedFramesOnlyNotified : Obligations.HostFixedFramesOnlyNotified := by
  intro s p1 p2 dest source d m hp hd hm
  have h : ∀ i : Instr, i.raw = .fixed p1 p2 dest source → i.kind.dir = .hostToDevice →
      Notifies i s { id := i.kind.id, dest := d, source := m, body := .fixed p1 p2 } (·.chan = s.chan) :=
    fun i hr hdir => notifies_of_hostToDevice hp hdir (check_of_fixed hr hd hm)
  exact ⟨h _ rfl rfl, h _ rfl rfl, h _ rfl rfl, h _ rfl rfl, h _ rfl rfl, h _ rfl rfl, h _ rfl rfl, h _ rfl rfl,
    h _ rfl rfl, h _ rfl rfl, h _ rfl rfl, h _ rfl rfl, h _ rfl rfl, h _ rfl rfl, h _ rfl rfl, h _ rfl rfl,
    h _ rfl rfl, h _ rfl rfl, h _ rfl rfl, h _ rfl rfl, h _ rfl rfl⟩

/-- Settles O20: each of the six kinds is one from the Host to a device, with the fields of its schema. -/
theorem hostSetFramesOnlyNotified : Obligations.HostSetFramesOnlyNotified := by
  intro s dest source d m hp hd hm
  have h : ∀ (i : Instr) {fs vs payload}, Holds fs vs payload → i.raw = .variableLen (dest ||| 0x80) source payload →
      i.kind.schema = .fields fs → i.kind.dir = .hostToDevice →
      Notifies i s { id := i.kind.id, dest := d, source := m,
                     body := .variableLen (BitVec.ofNat 16 (schemaWidth fs)) (.record vs) } (·.chan = s.chan) :=
    fun i _ _ _ hh hr hk hdir => notifies_of_hostToDevice hp hdir (check_of_holds hh hk hr hd hm)
  exact ⟨fun _ _ _ _ h0 h1 h2 h3 => h _ (holds_vel h0 h1 h2 h3) rfl rfl rfl,
    fun _ _ _ _ _ _ _ h0 h1 h2 h3 h4 h5 h6 => h _ (holds_jog h0 h1 h2 h3 h4 h5 h6) rfl rfl rfl,
    fun _ _ _ _ _ _ h0 h1 h2 h3 h4 h5 => h _ (holds_limSwitch h0 h1 h2 h3 h4 h5) rfl rfl rfl,
    fun _ _ _ _ _ h0 h1 h2 h3 h4 => h _ (holds_home h0 h1 h2 h3 h4) rfl rfl rfl,
    fun _ _ h0 h1 => h _ (holds_moveRel h0 h1) rfl rfl rfl,
    fun _ _ h0 h1 => h _ (holds_moveAbs h0 h1) rfl rfl rfl⟩

/-! ### The responses of a device (R272 to R279, R286) -/

/-- Settles O21: the channel is the one that `param1` names, and the code decides its change. -/
theorem enableStateReport : Obligations.EnableStateReport := by
  intro s p1 p2 dest source d m hr hd hm
  exact delivers_of_check hr (check_of_fixed rfl hd hm) fun p t ht =>
    changesNamed_of_perChannel (channelOf_param1 rfl) rfl ht

/-- Settles O22: the channel is the one that `ChanIdent` names, and each kind writes its own cache. -/
theorem parameterReports : Obligations.ParameterReports := by
  intro s dest source d m hr hd hm
  have h : ∀ (i : Instr) {fs v vs payload}, Holds fs ((.chanIdent, .uint v) :: vs) payload →
      i.raw = .variableLen (dest ||| 0x80) source payload → i.kind.schema = .fields fs →
      Instr.effect i = cacheEffect i.kind → i.kind.chanField = .field .chanIdent →
      Delivers i s { id := i.kind.id, dest := d, source := m, body :=
          .variableLen (BitVec.ofNat 16 (schemaWidth fs)) (.record ((.chanIdent, .uint v) :: vs)) }
        fun _ t => s.ChangesNamed t m v
          (ChannelState.cache i.kind.slot (some (.record ((.chanIdent, .uint v) :: vs)))) := by
    intro i fs v vs payload hh hraw hk heff hch
    refine delivers_of_check hr (check_of_holds hh hk hraw hd hm) fun p t ht => ?_
    rw [heff] at ht
    exact changesNamed_of_perChannel (channelOf_chanIdent hch) rfl ht
  exact ⟨fun _ _ _ _ h0 h1 h2 h3 => h _ (holds_vel h0 h1 h2 h3) rfl rfl rfl rfl,
    fun _ _ _ _ _ _ _ h0 h1 h2 h3 h4 h5 h6 => h _ (holds_jog h0 h1 h2 h3 h4 h5 h6) rfl rfl rfl rfl,
    fun _ _ _ _ _ h0 h1 h2 h3 h4 => h _ (holds_home h0 h1 h2 h3 h4) rfl rfl rfl rfl,
    fun _ _ _ _ _ _ h0 h1 h2 h3 h4 h5 => h _ (holds_limSwitch h0 h1 h2 h3 h4 h5) rfl rfl rfl rfl,
    fun _ _ h0 h1 => h _ (holds_moveRel h0 h1) rfl rfl rfl rfl,
    fun _ _ h0 h1 => h _ (holds_moveAbs h0 h1) rfl rfl rfl rfl⟩

/-- Settles O23: a kind without a channel field is about the channel of the entry it answers. -/
theorem adcReport : Obligations.AdcReport := by
  intro s dest source d m a b hr hd hm ha hb
  refine delivers_of_check hr (check_of_holds (holds_adc ha hb) rfl rfl hd hm) fun p t ht => ⟨?_, fun hnone => ?_⟩
  · rintro e ch rfl hch
    have hch' : ∀ f, channelOf Config.cfg kindMotGetAdcinputs f (some e) = some ch := fun _ => hch
    have hof : ∀ m' ch', t.chanOf m' ch' = _ := fun m' ch' =>
      (congrArg (chanGet · ⟨m', ch'⟩) ht).trans (chanOf_updateChannel_perChannel (hch' _) m' ch')
    refine ⟨(hof m ch).trans (if_pos ⟨rfl, rfl⟩), fun m' ch' hne => (hof m' ch').trans (if_neg ?_)⟩
    rintro ⟨rfl, rfl⟩
    simp at hne
  · have hch : p.bind Pending.channel = none := Option.bind_eq_none_iff.2 hnone
    exact ht.trans (congrArg State.chan (updateChannel_perChannel_of_none hch))

/-- Settles O24: the three kinds have no effect on the channel file. -/
theorem informationReplies : Obligations.InformationReplies := by
  intro s p1 p2 dest source d m hr hd hm
  refine ⟨fun serial hwType hwVer modState numCh model fw notes empty h0 h1 h2 h3 h4 h5 h6 h7 h8 => ?_, ?_, ?_⟩
  · exact delivers_of_check hr (check_of_holds (holds_hwInfo h0 h1 h2 h3 h4 h5 h6 h7 h8) rfl rfl hd hm) fun _ _ ht => ht
  · exact delivers_of_check hr (check_of_fixed rfl hd hm) fun _ _ ht => ht
  · exact delivers_of_check hr (check_of_fixed rfl hd hm) fun _ _ ht => ht

/-! ### The reports of a device (R280 to R284) -/

/-- Settles O25: the channel that `param1` names, changed by `onHomed`. -/
theorem homedReport : Obligations.HomedReport := by
  intro s p1 p2 dest source d m hp hd hm
  exact notifies_of_role hp (check_of_fixed rfl hd hm) nofun fun t ht =>
    changesNamed_of_perChannel (channelOf_param1 rfl) ChannelState.onHomed_eq ht

/-- Settles O26: the channel that `ChanIdent` names, its status cached and then changed by `onCompleted` or `onStopped`. -/
theorem completedAndStoppedReports : Obligations.CompletedAndStoppedReports := by
  intro s dest source d m v position encCount statusBits hp hd hm h0 h1 h2 h3
  have hh := holds_status h0 h1 h2 h3
  constructor
  · refine notifies_of_role hp (check_of_holds hh rfl rfl hd hm) nofun fun t ht =>
      changesNamed_of_perChannel (channelOf_chanIdent rfl) ?_ ht
    funext c
    exact congrFun ChannelState.onCompleted_eq _
  · refine notifies_of_role hp (check_of_holds hh rfl rfl hd hm) nofun fun t ht =>
      changesNamed_of_perChannel (channelOf_chanIdent rfl) ?_ ht
    funext c
    exact congrFun ChannelState.onStopped_eq _

/-- Settles O27: `forget` on every channel of the source module. -/
theorem disconnectReport : Obligations.DisconnectReport := by
  intro s p1 p2 dest source d m hp hwf hd hm
  exact notifies_of_role hp (check_of_fixed rfl hd hm) nofun fun t ht =>
    changesModule_of_moduleWide hwf ChannelState.forget_init ht

/-- Settles O28: `onErrorReport` on every channel of the source module, for both kinds. -/
theorem errorReports : Obligations.ErrorReports := by
  intro s p1 p2 dest source d m hp hwf hd hm
  rw [← ChannelState.onErrorReport_eq]
  refine ⟨?_, fun msgIdent code notes h0 h1 h2 => ?_⟩
  · exact notifies_of_role hp (check_of_fixed rfl hd hm) nofun fun t ht =>
      changesModule_of_moduleWide hwf ChannelState.onErrorReport_init ht
  · exact notifies_of_role hp (check_of_holds (holds_richResponse h0 h1 h2) rfl rfl hd hm) nofun fun t ht =>
      changesModule_of_moduleWide hwf ChannelState.onErrorReport_init ht

/-! ### Every frame: one Reply or one notification (R176, R177, R431) -/

/-- Ending an entry delivers its outcome first, and after it errors only. -/
def AnswersFirst (s t : State) (x : Tag) (o : OpOutcome) : Prop :=
  ∃ more, t.results = s.results ++ (x, o) :: more ∧ ∀ e ∈ more, ∃ code, e.2 = .err code

theorem issue_results (cfg : Cfg) (key : BusyKey) (x : Tag) (c : Command) (bytes : List Byte) (s : State) :
    ∃ more, (issue cfg key x c bytes s).results = s.results ++ more ∧ ∀ e ∈ more, ∃ code, e.2 = .err code := by
  cases ha : s.nextAnswer with
  | ok => rw [issue_of_ok key x c bytes ha]; exact ⟨[], (List.append_nil _).symm, fun _ he => nomatch he⟩
  | error =>
    rw [issue_of_error key x c bytes ha, State.pushResult_results, doClose_eq]
    refine ⟨_, List.append_assoc _ _ _, fun e he => ?_⟩
    rcases List.mem_append.1 he with he | he
    · obtain ⟨y, -, rfl⟩ := List.mem_map.1 he
      exact ⟨_, rfl⟩
    · rw [List.mem_singleton.1 he]
      exact ⟨_, rfl⟩

theorem finish_answersFirst (cfg : Cfg) (x : Tag) (p : Pending) (o : OpOutcome) (s : State) :
    AnswersFirst s (finish cfg x p o s) x o := by
  unfold finish
  obtain ⟨d, rest, -, -, h⟩ | ⟨-, h⟩ := issueNext_cases cfg p.key ((s.setPending (FMap.del s.pending x)).pushResult x o) <;>
    rw [h]
  · obtain ⟨more, hmore, herr⟩ := issue_results cfg p.key d.tag d.op d.bytes
      (((s.setPending (FMap.del s.pending x)).pushResult x o).setWaitq (waitSet s.waitq p.key rest))
    exact ⟨more, by rw [State.pushResult_waitq, State.setPending_waitq, hmore]; simp, herr⟩
  · exact ⟨[], rfl, fun _ he => nomatch he⟩

theorem FMap.get?_isSome_of_mem {κ α : Type} [DecidableEq κ] {m : List (κ × α)} {e : κ × α} (h : e ∈ m) :
    ∃ v, FMap.get? m e.1 = some v := by
  cases hg : FMap.get? m e.1 with
  | some v => exact ⟨v, rfl⟩
  | none =>
    induction m with
    | nil => cases h
    | cons e' m ih =>
      rw [FMap.get?] at hg
      split at hg
      · cases hg
      · rename_i hne
        rcases List.mem_cons.1 h with rfl | h
        · exact absurd rfl hne
        · exact ih h hg

/-- A frame is answered to the entry it matches, first of all, or is emitted. -/
theorem dispatch_outcome (cfg : Cfg) (k : Kind) (eff : Effect) (f : Frame) (s : State) :
    (∃ x p, s.matching f = some (x, p) ∧ AnswersFirst s (dispatch cfg k eff f s) x (.reply f) ∧
      (dispatch cfg k eff f s).notify = s.notify) ∨
    (s.matching f = none ∧ (dispatch cfg k eff f s).results = s.results ∧
      (dispatch cfg k eff f s).notify = s.notify ++ [f]) := by
  obtain ⟨x, p, hm, h⟩ | ⟨hm, h⟩ := dispatch_cases cfg k eff f s <;> rw [h]
  · obtain ⟨q, hq⟩ := FMap.get?_isSome_of_mem (mem_of_matching hm).1
    refine .inl ⟨x, p, hm, ?_⟩
    rw [← updateChannel_pending (cfg := cfg) k eff f (some p)] at hq
    rw [complete_of_get? (.reply f) hq, updateChannel_eq_setChan]
    exact ⟨finish_answersFirst cfg x q (.reply f) _, (finish_run (ok := fun _ => True) x q _ fun _ _ _ _ => trivial).notify⟩
  · refine .inr ⟨hm, ?_⟩
    rw [updateChannel_eq_setChan]
    exact ⟨rfl, rfl⟩

/-- Settles O29, by `dispatch_outcome`: errors are no replies. -/
theorem everyFrameAnswersOrNotifies : Obligations.EveryFrameAnswersOrNotifies := by
  intro i s f hc
  refine ⟨_, exec_of_check hc s, ?_⟩
  obtain ⟨x, p, -, ⟨more, hres, herr⟩, hn⟩ | ⟨-, hres, hn⟩ := dispatch_outcome Config.cfg i.kind (Instr.effect i) f s
  · refine .inr ⟨hn, x, more, hres, fun tag f' hmem => ?_⟩
    obtain ⟨code, he⟩ := herr _ hmem
    cases he
  · exact .inl ⟨hn, hres⟩

/-- Settles O30: the one Reply goes to the tag of the entry that the frame matches. -/
theorem repliesNeverCrossMatch : Obligations.RepliesNeverCrossMatch := by
  intro i s t f tag p hr hc hmem hbad h
  cases (exec_of_check hc s).symm.trans h
  obtain ⟨x, q, hm, ⟨more, hres, herr⟩, -⟩ | ⟨-, hres, -⟩ := dispatch_outcome Config.cfg i.kind (Instr.effect i) f s
  · obtain ⟨hq, hid, hsrc⟩ := mem_of_matching hm
    refine ⟨_, hres, fun g hg => ?_⟩
    rcases List.mem_cons.1 hg with hg | hg
    · cases hg
      have hpq : p = q := Option.some.inj ((FMap.get?_of_mem hr hmem).symm.trans (FMap.get?_of_mem hr hq))
      subst hpq
      exact hbad.elim (· hsrc) (· hid)
    · obtain ⟨code, he⟩ := herr _ hg
      cases he
  · exact ⟨[], hres.trans (List.append_nil _).symm, fun _ he => nomatch he⟩

/-! ### The subscriptions (R180, R220) -/

theorem updateChannel_setSubs (cfg : Cfg) (eff : Effect) (subs : Vector Subscription 13) :
    updateChannel cfg k eff f p (s.setSubs subs) = (updateChannel cfg k eff f p s).setSubs subs := by
  cases eff with
  | nothing | moduleWide g => rfl
  | perChannel g =>
    simp only [updateChannel]
    split <;> rfl

/-- Settles O31: neither the check of a frame nor an unsolicited dispatch reads the subscriptions. -/
theorem subscriptionDoesNotGateDispatch : Obligations.SubscriptionDoesNotGateDispatch := by
  intro i s subs hu
  cases hc : i.check with
  | error e => exact ⟨_, exec_of_check_error s hc, rfl, exec_of_check_error (s.setSubs subs) hc⟩
  | ok f =>
    refine ⟨_, (exec_of_check hc s).trans (congrArg _ (dispatch_of_unsolicited (hu f hc))), ?_, ?_⟩
    · rw [updateChannel_eq_setChan]; rfl
    · have hu' : (s.setSubs subs).Unsolicited f := hu f hc
      refine (exec_of_check hc (s.setSubs subs)).trans (congrArg _ ?_)
      rw [dispatch_of_unsolicited hu', updateChannel_setSubs]; rfl

/-! ### Completion (R423, R467) -/

theorem exec_completes (i : Instr) (s : State) : ∃ t, exec i s = .next t := by
  obtain ⟨_, -, h⟩ | ⟨_, -, h⟩ := exec_cases i s <;> exact ⟨_, h⟩

theorem deframe_completes (s : State) : ∃ t, deframe exec s = .next t := by
  obtain ⟨_, -, -, h⟩ | ⟨i, rest, -, -, h⟩ | ⟨-, h⟩ := deframe_cases exec s
  · exact ⟨_, h⟩
  · rw [h]; exact exec_completes i _
  · exact ⟨_, h⟩

/-- Settles O60: every event but `Deframe` is a function of the state, and a `Deframe` runs an instruction at most. -/
theorem everyStepCompletes : Obligations.EveryStepCompletes := by
  refine ⟨fun s => ?_, exec_completes⟩
  rw [step_eq_perform]
  cases s.env.drawEvent.1 with
  | deframe => exact deframe_completes _
  | _ => exact ⟨_, rfl⟩

end Machine

end Sys2Proof
end

section
/-! PROOFS. The events one by one: what ends a pending entry and what is issued after it (R210 to R212), the events that
change one field (R37, R45, R452), and the operations of the host with the bytes they send (R201 to R209, R218 to R246). -/

namespace Sys2Proof.Machine

variable {cfg : Cfg} {s t : State}

/-! ### Accept, Tick, Reconnect -/

/-- Settles O46: `accept` by its definition. -/
theorem acceptQueues : Obligations.AcceptQueues := fun _ _ => rfl

theorem tick_of_le {n : Ticks} (h : s.now ≤ n) : tick n s = s.setNow n := if_pos h

theorem tick_of_lt {n : Ticks} (h : n < s.now) : tick n s = s := if_neg (Nat.not_le_of_lt h)

/-- Settles O47, by whether the time is behind. -/
theorem tickSetsTime : Obligations.TickSetsTime := by
  refine ⟨fun s n h => ?_, fun s n h => ?_⟩
  · rw [step_offer, perform_tick, tick_of_le h]; rfl
  · rw [step_offer, perform_tick, tick_of_lt h]

theorem reconnect_of_not_enabled (h : ¬(s.conn = .closed ∧ s.cmdq = [])) : reconnect s = s := if_neg h

/-- Settles O45, by whether the event is enabled. -/
theorem reconnectResets : Obligations.ReconnectResets := by
  refine ⟨fun s hc hq => step_reconnect_of_enabled hc hq, fun s h => ?_⟩
  rw [step_offer, perform_reconnect, reconnect_of_not_enabled]
  rintro ⟨hc, hq⟩
  rcases h with h | h
  · rw [hc] at h; cases h
  · exact h hq

/-! ### The end of a pending entry -/

theorem expire_of_due {x : Tag} {p : Pending} (hp : FMap.get? s.pending x = some p) (hd : p.deadline ≤ s.now) :
    expire cfg x s = finish cfg x p (.err .timeout) s := by
  obtain ⟨q, hq, -, h⟩ | ⟨hlate, -⟩ := expire_cases cfg x s
  · rw [hp] at hq; cases hq; exact h
  · exact absurd hd (Nat.not_le_of_lt (hlate p hp))

theorem expire_of_not_due {x : Tag} (h : ∀ p, FMap.get? s.pending x = some p → s.now < p.deadline) :
    expire cfg x s = s := by
  obtain ⟨p, hp, hd, -⟩ | ⟨-, he⟩ := expire_cases cfg x s
  · exact absurd hd (Nat.not_le_of_lt (h p hp))
  · exact he

/-- Settles O42, by whether the entry is due. -/
theorem expireRule : Obligations.ExpireRule := by
  refine ⟨fun s x p hp hd hw => ?_, fun s x p hp hd => ?_, fun s x h => ?_⟩
  · rw [step_offer, perform_expire, expire_of_due hp hd, finish_of_nothing_waiting x p _ hw]; rfl
  · rw [step_offer, perform_expire, expire_of_due hp hd]
  · rw [step_offer, perform_expire, expire_of_not_due h]

/-- Settles O43: `finish` is the issue of the oldest deferred request, by the answer to its write. -/
theorem completionIssuesNext : Obligations.CompletionIssuesNext := by
  intro cfg s x p o d rest hc hw
  rw [finish_of_waiting x p o hc hw]
  refine ⟨fun ha => ?_, fun ha hwf => ?_, ?_, fun key hne => ?_, fun hr => rising_waitSet hr p.key rest⟩
  · have ha' : (((s.setPending (FMap.del s.pending x)).pushResult x o).setWaitq
        (waitSet s.waitq p.key rest)).nextAnswer = .ok := ha
    rw [issue_of_ok _ _ _ _ ha']
    refine ⟨_, rfl, rfl, fun hr => ?_, FMap.get?_put_self _ _ _, fun hne => ?_, fun y hyx hyd => ?_, ?_,
      fun key hne => ?_⟩
    · exact FMap.rising_put (fun _ _ => id) (FMap.rising_del hr x) d.tag _
    · exact (FMap.get?_put_of_ne hne.symm).trans (FMap.get?_del_self _ _)
    · exact (FMap.get?_put_of_ne hyd.symm).trans (FMap.get?_del_of_ne hyx.symm)
    · exact (waiting_waitSet s.waitq p.key p.key rest).trans (if_pos rfl)
    · exact (waiting_waitSet s.waitq p.key key rest).trans (if_neg hne.symm)
  · have ha' : (((s.setPending (FMap.del s.pending x)).pushResult x o).setWaitq
        (waitSet s.waitq p.key rest)).nextAnswer = .error := ha
    rw [issue_of_error _ _ _ _ ha']
    exact ⟨_, rfl, closedTo_doClose _ hwf⟩
  · rw [waiting_waitSet, if_pos rfl]
  · rw [waiting_waitSet, if_neg hne.symm]; rfl

/-! ### A command past its checks -/

theorem checkInputs_eq_ok {r : CommandRow} {m : ModuleAddress} (hd : validate r.dest = some m) (hm : m ≠ .host)
    (hch : channelError cfg r.ch = none) (hbay : bayError r.args = none) (ht : timeoutError cfg r = none) :
    checkInputs cfg r = .ok m := by
  rw [checkInputs_of_module hd hm, hch, hbay, ht]; rfl

theorem applyOutbound_subs (c : Command) (m : ModuleAddress) (h : t.subs = s.subs := by rfl) :
    (applyOutbound c m t).subs = (applyOutbound c m s).subs := by
  cases c <;> simp [applyOutbound, h]

/-- A fire-and-forget command past its checks is sent, and makes its outbound change. -/
theorem fires_of_encoded {c : Command} {m : ModuleAddress} {bytes : List Byte} {changes : State → State → Prop}
    (hi : checkInputs cfg (c.row cfg) = .ok m) (he : (c.row cfg).encoded cfg = .ok bytes)
    (hf : (c.row cfg).cls = .fire)
    (h : ∀ s t, t.chan = (applyOutbound c m s).chan → t.subs = (applyOutbound c m s).subs → changes s t) :
    Fires cfg c bytes changes := by
  intro s x rest hc hq ha
  have hc' : (s.setCmdq rest).conn = .opened := hc
  have hk : (c.row cfg).requestKey m = none := by unfold CommandRow.requestKey; rw [hf]
  have hrun : process cfg s = (applyOutbound c m ((s.setCmdq rest).answered.pushTx bytes .ok)).pushResult x .ok := by
    rw [process_command hq, runCommand_fire x hi hc' he hk, doFire, send_of_ok (s := s.setCmdq rest) bytes ha]
  refine ⟨_, rfl, ?_, h s _ ?_ ?_⟩
  · rw [hrun, applyOutbound_eq]; rfl
  · rw [hrun]; exact applyOutbound_chan c m
  · rw [hrun]; exact applyOutbound_subs c m

/-- A request past its checks, on a free key, is sent and opens its entry. -/
theorem opens_of_encoded {c : Command} {key : BusyKey} {bytes : List Byte} {p : Ticks → Pending}
    (hi : checkInputs cfg (c.row cfg) = .ok key.dest) (he : (c.row cfg).encoded cfg = .ok bytes)
    (hk : (c.row cfg).requestKey key.dest = some key) (hp : ∀ now, newPending cfg key c now = p now) :
    Opens cfg c bytes p := by
  intro s x rest hc hq ha hfree
  rw [← hp] at hfree ⊢
  have hc' : (s.setCmdq rest).conn = .opened := hc
  have hfree' : ∀ e ∈ (s.setCmdq rest).pending, e.2.key ≠ key := hfree
  rw [process_command hq, runCommand_request x hi hc' he hk, doRequest_of_free x c bytes hfree',
    issue_of_ok (s := s.setCmdq rest) key x c bytes ha]
  exact ⟨_, rfl, rfl, FMap.get?_put_self _ _ _, fun hr => FMap.rising_put (fun _ _ => id) hr x _,
    fun y hne => FMap.get?_put_of_ne hne.symm⟩

/-! ### The bytes of a command under the default catalogue -/

theorem standard_wf (c : Command) : c.kindName.standard.wf = true :=
  ((catalogueWf_iff.1 catalogueWf_catalogue).2.1 _ (standard_mem_catalogue c)).1

/-- A fixed kind is sent with the params pair of its command. -/
theorem encoded_of_pair (k : Kind) {c : Command} {m : ModuleAddress} {b0 b1 p1 p2 dest : Byte}
    (hcat : cfg.catalogue = catalogue) (hk : c.kindName.standard = k) (hs : k.shape = .fixed)
    (hid : bytesLe k.id.toNat 2 = [b0, b1]) (hdest : (c.row cfg).dest = dest) (hd : validate dest = some m)
    (hm : m ≠ .host) (hpair : (c.row cfg).pair cfg = .params [p1.toNat, p2.toNat]) :
    (c.row cfg).encoded cfg = .ok [b0, b1, p1, p2, dest, 0x01] := by
  subst hk hdest
  have hkind : (c.row cfg).kind = c.kindName.standard := by rw [row_kind, kindNamed_of_catalogue hcat]
  have hfields : (c.row cfg).fields cfg = .params [p1.toNat, p2.toNat] := by
    unfold CommandRow.fields; rw [hkind, hs]; exact hpair
  have hle : ∀ p : Byte, p.toNat ≤ 255 := fun p => Nat.le_of_lt_succ p.isLt
  rw [encoded_of_catalogue hcat, hfields, hkind, encodeFrame_fixed (lookup_of_mem_catalogue (standard_mem_catalogue c)) hs
    ((wf_spec (standard_wf c)).1.1 hs) hd hm (hle p1) (hle p2), hid]
  simp

/-- A channel with a one-byte identifier gives the first param. -/
theorem pair_of_chan {r : CommandRow} {ch : Channel} {v : Nat} {p2 : Byte} (hargs : r.args = .chan p2)
    (hch : r.ch = some ch) (hv : cfg.chanIdent ch = some v) (hlt : v < 2 ^ 8) :
    r.pair cfg = .params [(BitVec.ofNat 8 v).toNat, p2.toNat] := by
  have hident : r.ident cfg = some v := by rw [CommandRow.ident, hch]; exact hv
  rw [CommandRow.pair, hargs, BitVec.toNat_ofNat, Nat.mod_eq_of_lt hlt]
  simp only [hident, Option.getD_some]

/-- The channel identifier goes before the values in a schema that begins with it. -/
theorem placeChanIdent_cons (v : Nat) (ty : FieldType) (fs : List (FieldName × FieldType))
    (vs : List (FieldName × FieldValue)) :
    placeChanIdent v ((.chanIdent, ty) :: fs) vs = (.chanIdent, .uint v) :: vs := by
  cases vs <;> simp [placeChanIdent]

theorem fields_of_chanIdent {r : CommandRow} {fs : List (FieldName × FieldType)} {vs : List (FieldName × FieldValue)}
    {ch : Channel} {v : Nat} (hs : r.kind.shape = .variableLen) (hcf : r.kind.chanField = .field .chanIdent)
    (hk : r.kind.schema = .fields fs) (hargs : r.args = .values (.record vs)) (hch : r.ch = some ch)
    (hv : cfg.chanIdent ch = some v) : r.fields cfg = .values (.record (placeChanIdent v fs vs)) := by
  have hident : r.ident cfg = some v := by rw [CommandRow.ident, hch]; exact hv
  have hvals : r.vals = .record vs := by rw [CommandRow.vals, hargs]
  simp only [CommandRow.fields, hs, hcf, hk, hvals, hident]

/-- A variable kind whose schema begins with `ChanIdent` is sent with the channel's identifier and the values. -/
theorem encoded_of_holds {c : Command} {m : ModuleAddress} {ch : Channel} {v : Nat} {ty : FieldType}
    {fs : List (FieldName × FieldType)} {vs : List (FieldName × FieldValue)} {payload : List Byte}
    (hcat : cfg.catalogue = catalogue) (hs : c.kindName.standard.shape = .variableLen)
    (hcf : c.kindName.standard.chanField = .field .chanIdent)
    (hk : c.kindName.standard.schema = .fields ((.chanIdent, ty) :: fs))
    (hargs : (c.row cfg).args = .values (.record vs)) (hch : (c.row cfg).ch = some ch) (hv : cfg.chanIdent ch = some v) (hd : validate (c.row cfg).dest = some m)
    (hm : m ≠ .host) (hh : Holds ((.chanIdent, ty) :: fs) ((.chanIdent, .uint v) :: vs) payload) :
    (c.row cfg).encoded cfg =
      .ok (bytesLe c.kindName.standard.id.toNat 2 ++ bytesLe (schemaWidth ((FieldName.chanIdent, ty) :: fs)) 2 ++
        [(c.row cfg).dest ||| 0x80, 0x01] ++ payload) := by
  have hkind : (c.row cfg).kind = c.kindName.standard := by rw [row_kind, kindNamed_of_catalogue hcat]
  have hw : schemaWidth ((FieldName.chanIdent, ty) :: fs) ≤ maxPayload := by
    have h := (wf_spec (standard_wf c)).2.1
    rwa [hk] at h
  rw [encoded_of_catalogue hcat, fields_of_chanIdent (hkind ▸ hs) (hkind ▸ hcf) (hkind ▸ hk) hargs hch hv,
    placeChanIdent_cons, hkind, encodeFrame_variable (lookup_of_mem_catalogue (standard_mem_catalogue c)) hs hk hd hm
      hh.names hh.fit hw, hh.bytes]

/-! ### The outbound changes (R218, R219, R265 to R270) -/

theorem changesChannel_updateChan {m : ModuleAddress} {ch : Channel} {g : ChannelState → ChannelState}
    (h : t.chan = (s.updateChan m ch g).chan) : s.ChangesChannel t m ch g := by
  have hof : ∀ m' ch', t.chanOf m' ch' = (s.updateChan m ch g).chanOf m' ch' := fun m' ch' => by
    rw [State.chanOf, h]; rfl
  refine ⟨by rw [hof, State.chanOf_updateChan, if_pos ⟨rfl, rfl⟩], fun m' ch' hne => ?_⟩
  rw [hof, State.chanOf_updateChan, if_neg]
  rintro ⟨rfl, rfl⟩
  simp at hne

theorem changesChannel_id {m : ModuleAddress} {ch : Channel} (h : t.chan = s.chan) : s.ChangesChannel t m ch id := by
  have hof : ∀ m' ch', t.chanOf m' ch' = s.chanOf m' ch' := fun m' ch' => by rw [State.chanOf, h]; rfl
  exact ⟨hof m ch, fun m' ch' _ => hof m' ch'⟩

theorem ChannelState.beginMotion_eq (goal : Life) : ChannelState.beginMotion goal = fun c =>
    { c with life := if c.life = .unknown ∨ c.life = .disabled then c.life else goal } := by
  funext c
  obtain ⟨life⟩ := c
  cases life <;> rfl

theorem ChannelState.withEnable_true_eq : ChannelState.withEnable true = fun c =>
    { c with enable := .known true, life := if c.life = .unknown ∨ c.life = .disabled then .enabled else c.life } := by
  funext c
  obtain ⟨life⟩ := c
  cases life <;> rfl

theorem subOf_setSub (m m' : ModuleAddress) (v : Subscription) :
    (s.setSub m v).subOf m' = if m = m' then v else s.subOf m' := by
  have hidx : m.index.val = m'.index.val ↔ m = m' :=
    ⟨fun h => ModuleAddress.index_injective _ _ (Fin.ext h), fun h => by rw [h]⟩
  show (s.subs.set m.index v)[m'.index] = _
  simp only [Fin.getElem_fin, Vector.getElem_set, hidx]
  rfl

/-! ### Fire-and-forget operations -/

/-- Settles O32: the pair of each operation, and its outbound change. -/
theorem fireCommandsSend : Obligations.FireCommandsSend := by
  intro cfg dest m ch v hcat hd hm hv hlt hlo hhi n
  have hchannel : channelError cfg (some ch) = none :=
    channelError_eq_none fun c hc => by cases hc; exact ⟨hlo, hhi, by simp [hv]⟩
  have hcheck : ∀ c : Command, (c.row cfg).dest = dest → (c.row cfg).ch = some ch → (c.row cfg).cls = .fire →
      bayError (c.row cfg).args = none → checkInputs cfg (c.row cfg) = .ok m := fun c hdest hch hf hbay =>
    checkInputs_eq_ok (hdest ▸ hd) hm (hch ▸ hchannel) hbay (by rw [timeoutError, hf])
  have hfire : ∀ (k : Kind) {c : Command} {b0 b1 p2 : Byte} {changes : State → State → Prop}, (c.row cfg).dest = dest →
      (c.row cfg).ch = some ch → (c.row cfg).cls = .fire → (c.row cfg).args = .chan p2 →
      c.kindName.standard = k → k.shape = .fixed → bytesLe k.id.toNat 2 = [b0, b1] →
      (∀ s t, t.chan = (applyOutbound c m s).chan → t.subs = (applyOutbound c m s).subs → changes s t) →
      Fires cfg c [b0, b1, n, p2, dest, 0x01] changes := by
    intro k c b0 b1 p2 changes hdest hch hf hargs hk hs hid h
    exact fires_of_encoded (hcheck c hdest hch hf (by rw [hargs]; rfl))
      (encoded_of_pair k hcat hk hs hid hdest hd hm (pair_of_chan hargs hch hv hlt)) hf h
  have hupdate : ∀ {g g' : ChannelState → ChannelState}, g = g' → ∀ s t : State, t.chan = (s.updateChan m ch g).chan →
      t.subs = (s.updateChan m ch g).subs → t.subs = s.subs ∧ s.ChangesChannel t m ch g' := by
    rintro g _ rfl s t hchan hsubs
    exact ⟨hsubs, changesChannel_updateChan hchan⟩
  have hstay : ∀ s t : State, t.chan = s.chan → t.subs = s.subs → t.subs = s.subs ∧ s.ChangesChannel t m ch id :=
    fun s t hchan hsubs => ⟨hsubs, changesChannel_id hchan⟩
  refine ⟨?identify, hfire kindModSetChanenablestate rfl rfl rfl rfl rfl rfl rfl (hupdate ChannelState.withEnable_true_eq),
    hfire kindModSetChanenablestate rfl rfl rfl rfl rfl rfl rfl (hupdate rfl),
    hfire kindMotMoveHome rfl rfl rfl rfl rfl rfl rfl (hupdate (ChannelState.beginMotion_eq _)),
    hfire kindMotMoveRelative rfl rfl rfl rfl rfl rfl rfl (hupdate (ChannelState.beginMotion_eq _)),
    hfire kindMotMoveAbsolute rfl rfl rfl rfl rfl rfl rfl (hupdate (ChannelState.beginMotion_eq _)),
    hfire kindMotMoveJog rfl rfl rfl rfl rfl rfl rfl (hupdate (ChannelState.beginMotion_eq _)),
    hfire kindMotMoveJog rfl rfl rfl rfl rfl rfl rfl (hupdate (ChannelState.beginMotion_eq _)),
    hfire kindMotMoveVelocity rfl rfl rfl rfl rfl rfl rfl (hupdate (ChannelState.beginMotion_eq _)),
    hfire kindMotMoveVelocity rfl rfl rfl rfl rfl rfl rfl (hupdate (ChannelState.beginMotion_eq _)),
    hfire kindMotMoveStop rfl rfl rfl rfl rfl rfl rfl hstay, hfire kindMotMoveStop rfl rfl rfl rfl rfl rfl rfl hstay⟩
  case identify =>
    exact fires_of_encoded (hcheck (.identify ch dest) rfl rfl rfl rfl)
      (encoded_of_pair kindModIdentify (p1 := 0) (p2 := 0) hcat rfl rfl rfl rfl hd hm rfl) rfl hstay

/-- Settles O33: the fields of each operation after the channel's identifier, and no outbound change. -/
theorem setParametersSend : Obligations.SetParametersSend := by
  intro cfg dest m ch v hcat hd hm hv hlt hlo hhi
  have hchannel : channelError cfg (some ch) = none :=
    channelError_eq_none fun c hc => by cases hc; exact ⟨hlo, hhi, by simp [hv]⟩
  have hset : ∀ (k : Kind) {c : Command} {ty fs vs payload bytes},
      Holds ((.chanIdent, ty) :: fs) ((.chanIdent, .uint v) :: vs) payload → c.kindName.standard = k →
      k.schema = .fields ((.chanIdent, ty) :: fs) → (c.row cfg).args = .values (.record vs) →
      (c.row cfg).dest = dest → (c.row cfg).ch = some ch → (c.row cfg).cls = .fire →
      k.shape = .variableLen → k.chanField = .field .chanIdent → (∀ s, applyOutbound c m s = s) →
      bytesLe k.id.toNat 2 ++ bytesLe (schemaWidth ((FieldName.chanIdent, ty) :: fs)) 2 ++
        [dest ||| 0x80, 0x01] ++ payload = bytes →
      Fires cfg c bytes (fun s t => t.subs = s.subs ∧ t.chan = s.chan) := by
    rintro _ c ty fs vs payload bytes hh rfl hk hargs hdest hch hf hs hcf hout hbytes
    have he := encoded_of_holds hcat hs hcf hk hargs hch hv (hdest ▸ hd) hm hh
    rw [hdest, hbytes] at he
    refine fires_of_encoded (checkInputs_eq_ok (hdest ▸ hd) hm (hch ▸ hchannel) (by rw [hargs]; rfl)
      (by rw [timeoutError, hf])) he hf fun s t hchan hsubs => ?_
    rw [hout] at hchan hsubs
    exact ⟨hsubs, hchan⟩
  refine ⟨fun _ _ _ h1 h2 h3 =>
      hset kindMotSetVelparams (holds_vel hlt h1 h2 h3) rfl rfl rfl rfl rfl rfl rfl rfl (fun _ => rfl) ?_,
    fun _ _ _ _ _ _ h1 h2 h3 h4 h5 h6 =>
      hset kindMotSetJogparams (holds_jog hlt h1 h2 h3 h4 h5 h6) rfl rfl rfl rfl rfl rfl rfl rfl (fun _ => rfl) ?_,
    fun _ _ _ _ h1 h2 h3 h4 =>
      hset kindMotSetHomeparams (holds_home hlt h1 h2 h3 h4) rfl rfl rfl rfl rfl rfl rfl rfl (fun _ => rfl) ?_,
    fun _ _ _ _ _ h1 h2 h3 h4 h5 =>
      hset kindMotSetLimswitchparams (holds_limSwitch hlt h1 h2 h3 h4 h5) rfl rfl rfl rfl rfl rfl rfl rfl
        (fun _ => rfl) ?_,
    fun _ h1 => hset kindMotSetMoverelparams (holds_moveRel hlt h1) rfl rfl rfl rfl rfl rfl rfl rfl (fun _ => rfl) ?_,
    fun _ h1 => hset kindMotSetMoveabsparams (holds_moveAbs hlt h1) rfl rfl rfl rfl rfl rfl rfl rfl (fun _ => rfl) ?_⟩
  all_goals simp only [List.append_assoc]; rfl

/-- Settles O34: the pair is zero, and the outbound change is of one module's subscription. -/
theorem subscriptionMachine : Obligations.SubscriptionMachine := by
  intro cfg dest m hcat hd hm
  have hsub : ∀ (v : Subscription) (s t : State), t.chan = (s.setSub m v).chan → t.subs = (s.setSub m v).subs →
      t.chan = s.chan ∧ t.subOf m = v ∧ ∀ m', m' ≠ m → t.subOf m' = s.subOf m' := by
    intro v s t hchan hsubs
    have hof : ∀ m', t.subOf m' = if m = m' then v else s.subOf m' := fun m' => by
      rw [← subOf_setSub, State.subOf, hsubs]; rfl
    exact ⟨hchan, by rw [hof, if_pos rfl], fun m' hne => by rw [hof, if_neg hne.symm]⟩
  exact ⟨fires_of_encoded (checkInputs_eq_ok hd hm rfl rfl rfl)
      (encoded_of_pair kindHwStartUpdatemsgs (p1 := 0) (p2 := 0) hcat rfl rfl rfl rfl hd hm rfl) rfl (hsub .subscribed),
    fires_of_encoded (checkInputs_eq_ok hd hm rfl rfl rfl)
      (encoded_of_pair kindHwStopUpdatemsgs (p1 := 0) (p2 := 0) hcat rfl rfl rfl rfl hd hm rfl) rfl (hsub .unsubscribed)⟩

/-! ### Requests -/

/-- The entry of a request under the default catalogue. -/
theorem newPending_of_catalogue {c : Command} {key : BusyKey} {limit : Option Ticks} (hcat : cfg.catalogue = catalogue)
    (hcls : (c.row cfg).cls = .request limit) (now : Ticks) : newPending cfg key c now =
      { reqId := c.kindName.standard.id, respIds := c.kindName.standard.responses, dest := key.dest,
        family := key.family, channel := (c.row cfg).ch, deadline := now + limit.getD cfg.defaultTimeout, op := c } := by
  rw [newPending, row_kind, kindNamed_of_catalogue hcat, timeout_of_request hcls]

theorem requestKey_of_catalogue {c : Command} {limit : Option Ticks} (hcat : cfg.catalogue = catalogue)
    (hcls : (c.row cfg).cls = .request limit) (m : ModuleAddress) :
    (c.row cfg).requestKey m = some ⟨m, c.kindName.standard.family⟩ := by
  rw [CommandRow.requestKey, hcls, row_kind, kindNamed_of_catalogue hcat]

/-- Settles O35: the pair of each request, and the entry that its kind opens. -/
theorem requestsOpenEntries : Obligations.RequestsOpenEntries := by
  intro cfg dest m timeout hcat hd hm htime
  have hopen : ∀ (k : Kind) {c : Command} {b0 b1 p1 p2 : Byte} {p : Ticks → Pending},
      (c.row cfg).cls = .request timeout → (c.row cfg).dest = dest → channelError cfg (c.row cfg).ch = none →
      bayError (c.row cfg).args = none → (c.row cfg).pair cfg = .params [p1.toNat, p2.toNat] →
      c.kindName.standard = k → k.shape = .fixed → bytesLe k.id.toNat 2 = [b0, b1] →
      (∀ now, { reqId := k.id, respIds := k.responses, dest := m, family := k.family, channel := (c.row cfg).ch,
                deadline := now + timeout.getD cfg.defaultTimeout, op := c : Pending } = p now) →
      Opens cfg c [b0, b1, p1, p2, dest, 0x01] p := by
    intro k c b0 b1 p1 p2 p hcls hdest hch hbay hpair hk hs hid hp
    have ht : timeoutError cfg (c.row cfg) = none :=
      timeoutError_eq_none fun limit hl => by rw [hcls] at hl; cases hl; exact htime
    have hkey : (c.row cfg).requestKey m = some ⟨m, k.family⟩ := hk ▸ requestKey_of_catalogue hcat hcls m
    exact opens_of_encoded (key := ⟨m, k.family⟩) (checkInputs_eq_ok (hdest ▸ hd) hm hch hbay ht)
      (encoded_of_pair k hcat hk hs hid hdest hd hm hpair) hkey fun now => by
        rw [newPending_of_catalogue hcat hcls, hk, ← hp]
  refine ⟨fun ch v hv hlt hlo hhi => ?_,
    hopen kindHwReqInfo (p1 := 0) (p2 := 0) rfl rfl rfl rfl rfl rfl rfl rfl fun _ => rfl, fun bay hbay => ?_,
    hopen kindHubReqBayused (p1 := 0) (p2 := 0) rfl rfl rfl rfl rfl rfl rfl rfl fun _ => rfl⟩
  · have hchannel : channelError cfg (some ch) = none :=
      channelError_eq_none fun c hc => by cases hc; exact ⟨hlo, hhi, by simp [hv]⟩
    have hchan : ∀ (k : Kind) {c : Command} {b0 b1 : Byte} {p : Ticks → Pending}, (c.row cfg).cls = .request timeout →
        (c.row cfg).dest = dest → (c.row cfg).args = .chan 0x00 → (c.row cfg).ch = some ch →
        c.kindName.standard = k → k.shape = .fixed → bytesLe k.id.toNat 2 = [b0, b1] →
        (∀ now, _ = p now) → Opens cfg c [b0, b1, BitVec.ofNat 8 v, 0x00, dest, 0x01] p :=
      fun k _ _ _ _ hcls hdest hargs hch hk hs hid hp => hopen k hcls hdest (hch ▸ hchannel) (by rw [hargs]; rfl)
        (pair_of_chan hargs hch hv hlt) hk hs hid hp
    exact ⟨hchan kindModReqChanenablestate rfl rfl rfl rfl rfl rfl rfl fun _ => rfl,
      hchan kindMotReqVelparams rfl rfl rfl rfl rfl rfl rfl fun _ => rfl,
      hchan kindMotReqJogparams rfl rfl rfl rfl rfl rfl rfl fun _ => rfl,
      hchan kindMotReqHomeparams rfl rfl rfl rfl rfl rfl rfl fun _ => rfl,
      hchan kindMotReqLimswitchparams rfl rfl rfl rfl rfl rfl rfl fun _ => rfl,
      hchan kindMotReqMoverelparams rfl rfl rfl rfl rfl rfl rfl fun _ => rfl,
      hchan kindMotReqMoveabsparams rfl rfl rfl rfl rfl rfl rfl fun _ => rfl,
      hchan kindMotReqAdcinputs rfl rfl rfl rfl rfl rfl rfl fun _ => rfl⟩
  · exact hopen kindRackReqBayused (p1 := bay) (p2 := 0) rfl rfl rfl
      (bayError_eq_none fun b hb => by cases hb; exact hbay) rfl rfl rfl rfl fun _ => rfl

/-! ### Operands that `encode` turns away (R121, R202) -/

theorem fields_of_fixed {r : CommandRow} (hs : r.kind.shape = .fixed) : r.fields cfg = r.pair cfg := by
  unfold CommandRow.fields; rw [hs]

theorem fields_of_other_chanField {r : CommandRow} {vals : FieldValues} (hs : r.kind.shape = .variableLen)
    (hcf : r.kind.chanField ≠ .field .chanIdent) (hargs : r.args = .values vals) : r.fields cfg = .values vals := by
  have hvals : r.vals = vals := by rw [CommandRow.vals, hargs]
  unfold CommandRow.fields
  rw [hs]
  simp only
  split
  · rename_i h _ _ _; exact absurd h hcf
  · rw [hvals]

/-- A byte string goes alone. -/
theorem fields_of_raw {r : CommandRow} {bs : List Byte} (hs : r.kind.shape = .variableLen)
    (hargs : r.args = .values (.raw bs)) : r.fields cfg = .values (.raw bs) := by
  have hvals : r.vals = .raw bs := by rw [CommandRow.vals, hargs]
  unfold CommandRow.fields
  rw [hs, hvals]
  simp only
  split
  · rename_i h _; cases h
  · rfl

/-- The channel identifier goes to the place of the first `ChanIdent` of the schema. -/
theorem placeChanIdent_append {before after : List (FieldName × FieldType)} {vs ws : List (FieldName × FieldValue)}
    (v : Nat) (hlen : vs.length = before.length) (hb : ∀ f ∈ before, f.1 ≠ .chanIdent) :
    placeChanIdent v (before ++ (.chanIdent, .uint2) :: after) (vs ++ ws) = vs ++ (.chanIdent, .uint v) :: ws := by
  induction before generalizing vs with
  | nil =>
    rw [List.length_eq_zero_iff.1 hlen]
    exact placeChanIdent_cons v _ after ws
  | cons f before ih =>
    cases vs with
    | nil => cases hlen
    | cons e vs =>
      rw [List.forall_mem_cons] at hb
      simp only [List.cons_append, placeChanIdent, if_neg hb.1, ih (Nat.succ.inj hlen) hb.2]

/-- The kind of a command is a well-formed one, registered or not. -/
theorem row_kind_wf (hcat : catalogueWf cfg.catalogue = true) (c : Command) : (c.row cfg).kind.wf = true := by
  cases hn : named cfg.catalogue c.kindName with
  | some k => rw [row_kind_of_named hn]; exact ((catalogueWf_iff.1 hcat).2.1 k (named_spec hn).1).1
  | none => rw [row_kind, Cfg.kindNamed, hn]; exact standard_wf c

/-- A kind with another schema than `Fixed2` is a variable one. -/
theorem shape_of_schema {k : Kind} (hwf : k.wf = true) (hk : k.schema ≠ .fixed2) : k.shape = .variableLen := by
  cases hs : k.shape with
  | fixed => exact absurd ((wf_spec hwf).1.1 hs) hk
  | variableLen => rfl

/-- A command with values has a channel. -/
theorem ch_of_values {c : Command} {vals : FieldValues} (h : (c.row cfg).args = .values vals) :
    ∃ ch, (c.row cfg).ch = some ch := by
  cases c with
  | setVelparams ch | setJogparams ch | setHomeparams ch | setLimswitchparams ch | setMoverelparams ch
  | setMoveabsparams ch => exact ⟨ch, rfl⟩
  | _ => cases h

/-- Values that are not the fields of the schema after `ChanIdent` do not pass its check. -/
theorem fieldsError_chanIdent_of_misfit {fs : List (FieldName × FieldType)} {vs : List (FieldName × FieldValue)}
    {v : Nat} (h : vs.map Prod.fst ≠ fs.map Prod.fst ∨ ∃ e ∈ fs.zip vs, e.1.2.fits e.2.2 = false) :
    ∃ r, fieldsError (.fields ((.chanIdent, .uint2) :: fs)) (.values (.record ((.chanIdent, .uint v) :: vs))) =
      some r := by
  refine Option.ne_none_iff_exists'.1 fun hnone => ?_
  obtain ⟨_, ⟨⟩, hn, hf⟩ := fieldsError_fields hnone
  have hfits := (firstMisfit_eq_none_iff _ _ hn).1 hf
  rcases h with h | ⟨e, he, hfalse⟩
  · exact h (List.cons.inj hn).2
  · have htrue := hfits e (List.mem_cons_of_mem _ he)
    rw [hfalse] at htrue
    cases htrue

/-- Settles O38: the fields of a command, and each misfit as one that the schema's check finds. -/
theorem operandErrorsBeforeAnyIO : Obligations.OperandErrorsBeforeAnyIO := by
  refine ⟨fun cfg c k hn => ⟨row_kind_of_named hn, encoded_of_named hn, ?_⟩, fun cfg c => encoded_of_not_named,
    fun cfg s tag c rest m hq hi hc => ?_⟩
  · have hkind : (c.row cfg).kind = k := row_kind_of_named hn
    refine ⟨fun hs => ?fixed, fun ch v fs before after vs ws hs hcf hk hargs hch hv hfs hlen hb => ?chanIdent,
      fun vals hs hcf hargs => fields_of_other_chanField (hkind ▸ hs) (hkind ▸ hcf) hargs⟩
    case fixed =>
      rw [fields_of_fixed (hkind ▸ hs)]
      refine ⟨fun hargs => ?_, fun ch v p2 hargs hch hv => ?_, fun b hargs => ?_⟩
      · rw [CommandRow.pair, hargs]
      · rw [CommandRow.pair, hargs, CommandRow.ident, hch]; simp [hv]
      · rw [CommandRow.pair, hargs]
    case chanIdent =>
      rw [fields_of_chanIdent (hkind ▸ hs) (hkind ▸ hcf) (hkind ▸ hk) hargs hch hv, hfs,
        placeChanIdent_append v hlen hb]
  · have herror : ∀ e, (c.row cfg).encoded cfg = .error e →
        process cfg s = { s with cmdq := rest, results := s.results ++ [(tag, .err e.code)] } := fun e he => by
      have hc' : (s.setCmdq rest).conn = .opened := hc
      rw [process_command hq, runCommand_of_encode_error tag hi hc' he]; rfl
    refine ⟨herror, fun hn => herror _ (encoded_of_not_named hn), fun hcat => ?_⟩
    have hwf : (c.row cfg).kind.wf = true := row_kind_wf hcat c
    have hmisfit : ∀ r, fieldsError (c.row cfg).kind.schema ((c.row cfg).fields cfg) = some r →
        process cfg s = { s with cmdq := rest, results := s.results ++ [(tag, .err .schemaViolation)] } := fun r hr => by
      obtain ⟨r', he⟩ := encoded_of_misfit hcat hi hr
      exact herror _ he
    refine ⟨fun ch v p2 hs hargs hch hv hgt => ?_, fun fs bs hk hargs => ?_, fun bs hk hargs hgt => ?_,
      fun fs vs hargs hcf hk hbad => ?_⟩
    · have hpair : (c.row cfg).pair cfg = .params [v, p2.toNat] := by
        rw [CommandRow.pair, hargs, CommandRow.ident, hch]; simp [hv]
      refine hmisfit (.fieldWidth none) ?_
      rw [fields_of_fixed hs, hpair, (wf_spec hwf).1.1 hs, fieldsError_pair_of_gt (.inl hgt)]
    · refine hmisfit .fieldCount ?_
      rw [fields_of_raw (shape_of_schema hwf (by simp [hk])) hargs, hk]; rfl
    · refine hmisfit .length ?_
      rw [fields_of_raw (shape_of_schema hwf (by simp [hk])) hargs, hk, fieldsError_opaque_of_gt hgt]
    · obtain ⟨ch, hch⟩ := ch_of_values hargs
      obtain ⟨-, v, hv⟩ := checkInputs_channel hi hch
      obtain ⟨r, hr⟩ := fieldsError_chanIdent_of_misfit (v := v) hbad
      refine hmisfit r ?_
      rw [fields_of_chanIdent (shape_of_schema hwf (by simp [hk])) hcf hk hargs hch hv, placeChanIdent_cons, hk, hr]

end Sys2Proof.Machine
end

section
/-! PROOFS. The channel file over a step (R88, R262 to R264): an operation of the host changes a channel by its outbound
change or forgets it, so that what those changes keep, every event but a frame keeps; and a frame's change is a move of
the state machine. -/

namespace Sys2Proof.Machine

variable {cfg : Cfg} {s t u : State} {ok : List Byte → Prop} {R : ChannelState → ChannelState → Prop}

/-- A relation of channel states that holds over everything but a frame: over nothing, a forgetting, and the outbound
changes of the commands (R265 to R270, R285). -/
structure HostMoves (R : ChannelState → ChannelState → Prop) : Prop where
  refl : ∀ c, R c c
  forget : ∀ c, R c c.forget
  enable : ∀ c on, R c (c.withEnable on)
  motion : ∀ c goal, goal = .homing ∨ goal = .moving ∨ goal = .jogging → R c (c.beginMotion goal)

theorem chanOf_of_chan_eq (h : t.chan = s.chan) (m : ModuleAddress) (ch : Channel) : t.chanOf m ch = s.chanOf m ch := by
  rw [State.chanOf, h]; rfl

theorem chanOf_of_forget (hwf : ChanFile.wf s.chan) (h : t.chan = chanMap (fun _ => true) ChannelState.forget s.chan)
    (m : ModuleAddress) (ch : Channel) : t.chanOf m ch = (s.chanOf m ch).forget := by
  rw [State.chanOf, h, chanGet_chanMap hwf.1 _ ChannelState.forget_init]; rfl

theorem related_updateChan (hrefl : ∀ c, R c c) {m : ModuleAddress} {ch : Channel} {g : ChannelState → ChannelState}
    (hg : ∀ c, R c (g c)) (m' : ModuleAddress) (ch' : Channel) :
    R (s.chanOf m' ch') ((s.updateChan m ch g).chanOf m' ch') := by
  rw [State.chanOf_updateChan]
  split
  · rename_i h; rw [← h.1, ← h.2]; exact hg _
  · exact hrefl _

theorem HostMoves.applyOutbound (hR : HostMoves R) (c : Command) (m m' : ModuleAddress) (ch : Channel) :
    R (s.chanOf m' ch) ((applyOutbound c m s).chanOf m' ch) := by
  cases c with
  | setEnable ch' dest on => exact related_updateChan hR.refl (fun c => hR.enable c on) m' ch
  | moveHome | moveRelative | moveAbsolute | moveJog | moveVelocity =>
    exact related_updateChan hR.refl (fun c => hR.motion c _ (by simp)) m' ch
  | _ => exact hR.refl _

theorem HostMoves.of_hostRun (hR : HostMoves R) (hwf : ChanFile.wf s.chan) (h : HostRun ok s t) (m : ModuleAddress)
    (ch : Channel) : R (s.chanOf m ch) (t.chanOf m ch) := by
  obtain (h | h) | ⟨c, m', h⟩ := h.chan
  · rw [chanOf_of_chan_eq h]; exact hR.refl _
  · rw [chanOf_of_forget hwf h]; exact hR.forget _
  · rw [chanOf_of_chan_eq (s := Machine.applyOutbound c m' s) h]; exact hR.applyOutbound c m' m ch

@[simp] theorem receiveBytes_chan (bs : List Byte) (s : State) : (receiveBytes bs s).chan = s.chan := by
  unfold receiveBytes; split <;> rfl

@[simp] theorem tick_chan (n : Ticks) (s : State) : (tick n s).chan = s.chan := by
  unfold tick; split <;> rfl

/-- Every event but `Deframe` and `Reconnect`. -/
theorem HostMoves.of_perform (hR : HostMoves R) {e : Event} {run : State → Host.Outcome State Fault Refusal}
    (hwf : ChanFile.wf s.chan) (hd : e ≠ .deframe) (hr : e ≠ .reconnect) (h : perform cfg run e s = .next t)
    (m : ModuleAddress) (ch : Channel) : R (s.chanOf m ch) (t.chanOf m ch) := by
  have hw : ∀ e ∈ s.waitq, ∀ d ∈ e.2, (fun _ : List Byte => True) d.bytes := fun _ _ _ _ => trivial
  cases e with
  | deframe => exact absurd rfl hd
  | reconnect => exact absurd rfl hr
  | accept op => cases h; exact hR.refl _
  | process => cases h; exact hR.of_hostRun hwf (process_run hw fun _ _ _ _ _ => trivial) m ch
  | receive bs => cases h; rw [chanOf_of_chan_eq (receiveBytes_chan bs s)]; exact hR.refl _
  | tick n => cases h; rw [chanOf_of_chan_eq (tick_chan n s)]; exact hR.refl _
  | expire x => cases h; exact hR.of_hostRun hwf (expire_run (ok := fun _ => True) x hw).hostRun m ch
  | close => cases h; exact hR.of_hostRun (ok := fun _ => True) hwf (close_run s).hostRun m ch

theorem hostMoves_sameCaches : HostMoves ChannelState.SameCaches where
  refl _ := ⟨rfl, rfl, rfl, rfl, rfl, rfl, rfl, rfl⟩
  forget _ := ⟨rfl, rfl, rfl, rfl, rfl, rfl, rfl, rfl⟩
  enable c on := by cases on <;> exact ⟨rfl, rfl, rfl, rfl, rfl, rfl, rfl, rfl⟩
  motion c goal _ := by rw [ChannelState.beginMotion_eq]; exact ⟨rfl, rfl, rfl, rfl, rfl, rfl, rfl, rfl⟩

/-- Settles O59: the outbound changes keep the caches, and so does forgetting. -/
theorem cachesWrittenByReportsOnly : Obligations.CachesWrittenByReportsOnly := by
  intro s t e hwf hd hr h
  rw [step_offer] at h
  exact hostMoves_sameCaches.of_perform hwf hd hr h

/-! ### The state machine of a channel's life (R263) -/

/-- A change of a channel's state moves its life along the state machine. -/
def LifeMoves (a b : ChannelState) : Prop := a.life.Moves b.life

theorem Life.Moves.unknown (a : Life) : a.Moves .unknown := .inr (.inl rfl)

theorem lifeMoves_of_life_eq {a b : ChannelState} (h : b.life = a.life) : LifeMoves a b := .inl h

theorem hostMoves_lifeMoves : HostMoves LifeMoves where
  refl c := lifeMoves_of_life_eq rfl
  forget c := Life.Moves.unknown c.life
  enable c on := by
    obtain ⟨life⟩ := c
    cases on
    · exact .inr (.inr (.inl rfl))
    · cases life <;> simp [LifeMoves, Life.Moves, ChannelState.withEnable]
  motion c goal hgoal := by
    obtain ⟨life⟩ := c
    rcases hgoal with rfl | rfl | rfl <;> cases life <;>
      simp [LifeMoves, Life.Moves, ChannelState.beginMotion, Life.inEnabledFamily]

theorem life_cache (slot : Option Slot) (v : Option FieldValues) (c : ChannelState) : (c.cache slot v).life = c.life := by
  unfold ChannelState.cache; split <;> rfl

theorem lifeMoves_onHomed (c : ChannelState) : LifeMoves c c.onHomed := by
  obtain ⟨life⟩ := c
  cases life <;> simp [LifeMoves, Life.Moves, ChannelState.onHomed]

theorem lifeMoves_onCompleted (c : ChannelState) : LifeMoves c c.onCompleted := by
  obtain ⟨life⟩ := c
  cases life <;> simp [LifeMoves, Life.Moves, ChannelState.onCompleted]

theorem lifeMoves_onStopped (c : ChannelState) : LifeMoves c c.onStopped := by
  obtain ⟨life⟩ := c
  cases life <;> simp [LifeMoves, Life.Moves, ChannelState.onStopped]

theorem lifeMoves_onErrorReport (c : ChannelState) : LifeMoves c c.onErrorReport := by
  obtain ⟨life⟩ := c
  cases life <;> simp [LifeMoves, Life.Moves, ChannelState.onErrorReport]

/-- A change after the status was cached moves the life as it does without. -/
theorem LifeMoves.of_cache {c d : ChannelState} {slot : Option Slot} {v : Option FieldValues}
    (h : LifeMoves (c.cache slot v) d) : LifeMoves c d := by
  rwa [LifeMoves, life_cache] at h

/-- What an effect does to one channel is a move of its life. -/
def Effect.MovesLife : Effect → Prop
  | .nothing => True
  | .perChannel g => ∀ f c, LifeMoves c (g f c)
  | .moduleWide g => ∀ c, LifeMoves c (g c)

theorem movesLife_cacheEffect (k : Kind) : (cacheEffect k).MovesLife :=
  fun _ c => lifeMoves_of_life_eq (life_cache _ _ c)

theorem movesLife_enableReportEffect (cfg : Cfg) : (enableReportEffect cfg).MovesLife := by
  intro f c
  dsimp only
  split
  · split
    · exact hostMoves_lifeMoves.enable c true
    · split
      · exact hostMoves_lifeMoves.enable c false
      · exact hostMoves_lifeMoves.refl c
  · exact hostMoves_lifeMoves.refl c

/-- The effect of every kind of any catalogue moves a life along the state machine. -/
theorem movesLife_kindEffect (cfg : Cfg) (k : Kind) : (kindEffect cfg k).MovesLife := by
  unfold kindEffect
  split
  · trivial
  · split
    · exact movesLife_enableReportEffect cfg
    · exact fun _ c => lifeMoves_onHomed c
    · exact fun _ c => (lifeMoves_onCompleted _).of_cache
    · exact fun _ c => (lifeMoves_onStopped _).of_cache
    · exact hostMoves_lifeMoves.forget
    · exact lifeMoves_onErrorReport
    · exact lifeMoves_onErrorReport
    · split
      · exact movesLife_cacheEffect k
      · trivial

theorem wf_updateChannel (hwf : ChanFile.wf s.chan) (k : Kind) (eff : Effect) (f : Frame) (p : Option Pending) :
    ChanFile.wf (updateChannel cfg k eff f p s).chan := by
  cases eff with
  | nothing => exact hwf
  | perChannel g =>
    simp only [updateChannel]
    split
    · exact ChanFile.wf_chanSet hwf _ _
    · exact hwf
  | moduleWide g => exact ChanFile.wf_chanMap hwf (fun key => key.module == f.source) g

theorem lifeMoves_updateChannel (hwf : ChanFile.wf s.chan) (k : Kind) (f : Frame) (p : Option Pending)
    (m : ModuleAddress) (ch : Channel) :
    LifeMoves (s.chanOf m ch) ((updateChannel cfg k (kindEffect cfg k) f p s).chanOf m ch) := by
  have hmoves := movesLife_kindEffect cfg k
  cases heff : kindEffect cfg k with
  | nothing => exact hostMoves_lifeMoves.refl _
  | perChannel g =>
    rw [heff] at hmoves
    simp only [updateChannel]
    split
    · exact related_updateChan hostMoves_lifeMoves.refl (hmoves f) m ch
    · exact hostMoves_lifeMoves.refl _
  | moduleWide g =>
    rw [heff] at hmoves
    rw [chanOf_updateChannel_moduleWide hwf (effect_moduleWide_init heff)]
    split
    · exact hmoves _
    · exact hostMoves_lifeMoves.refl _

/-- Receiving a frame moves a life by the frame's effect; where its answer closes the connection, the life is unknown. -/
theorem lifeMoves_exec {i : Instr} (hwf : ChanFile.wf s.chan) (h : exec i s = .next t) (m : ModuleAddress)
    (ch : Channel) : LifeMoves (s.chanOf m ch) (t.chanOf m ch) := by
  obtain ⟨e, -, he⟩ | ⟨f, -, he⟩ := exec_cases i s <;> cases he.symm.trans h
  · exact hostMoves_lifeMoves.refl _
  · obtain ⟨p, hrun⟩ | hd := dispatch_run (ok := fun _ => True) (cfg := Config.cfg) (s := s) i.kind (Instr.effect i) f
      fun _ _ _ _ => trivial
    · obtain hchan | hchan := hrun.chan
      · rw [chanOf_of_chan_eq hchan]
        exact lifeMoves_updateChannel hwf i.kind f p m ch
      · rw [chanOf_of_forget (wf_updateChannel hwf _ _ f p) hchan]
        exact Life.Moves.unknown _
    · rw [hd]
      exact lifeMoves_updateChannel hwf i.kind f none m ch

theorem lifeMoves_deframe (hwf : ChanFile.wf s.chan) (h : deframe exec s = .next t) (m : ModuleAddress)
    (ch : Channel) : LifeMoves (s.chanOf m ch) (t.chanOf m ch) := by
  obtain ⟨id, -, -, hd⟩ | ⟨i, rest, -, -, hd⟩ | ⟨-, hd⟩ := deframe_cases exec s <;> rw [hd] at h
  · cases h; exact hostMoves_lifeMoves.refl _
  · exact lifeMoves_exec (s := s.setRx rest) hwf h m ch
  · cases h; exact hostMoves_lifeMoves.refl _

theorem lifeMoves_reconnect (m : ModuleAddress) (ch : Channel) :
    LifeMoves (s.chanOf m ch) ((reconnect s).chanOf m ch) := by
  obtain ⟨-, -, h⟩ | ⟨-, h⟩ := reconnect_cases s <;> rw [h]
  · exact Life.Moves.unknown _
  · exact hostMoves_lifeMoves.refl _

/-- Settles O58: a frame, a `Reconnect`, and every other event by `HostMoves`. -/
theorem lifeFollowsStateMachine : Obligations.LifeFollowsStateMachine := by
  intro s t hwf h m ch
  rw [step_eq_perform] at h
  have hwf' : ChanFile.wf (s.setEnv s.env.drawEvent.2).chan := hwf
  by_cases hd : s.env.drawEvent.1 = .deframe
  · rw [hd] at h
    exact lifeMoves_deframe hwf' h m ch
  · by_cases hr : s.env.drawEvent.1 = .reconnect
    · rw [hr] at h
      cases h
      exact lifeMoves_reconnect (s := s.setEnv s.env.drawEvent.2) m ch
    · exact hostMoves_lifeMoves.of_perform hwf' hd hr h m ch

end Sys2Proof.Machine
end
